-- ==== Sys2Proof/Word.lean ====
section
/-!
DEFINITION. The value domain of the Marie.js core (10_state.md R17 to R19) and the type of an address field.
-/

namespace Sys2Proof

/-- What a register or a Word Store cell holds (R17): an unbounded signed integer, or the one non-numeric value. Equality is
that of R18: `invalid` equals no integer. -/
inductive Value where
  | int (z : Int)
  | invalid
  deriving DecidableEq, Repr, Inhabited

/-- Bits 7:0 of an instruction word (R69): the unsigned 8-bit address field. -/
abbrev Address := BitVec 8

/-- The cell index an address field stands for: the field itself, with no extension, scaling or offset (R75). -/
def Address.index (a : Address) : Int := (a.toNat : Int)

/-- The text the numeric formatting collaborator answers with (R112), as its characters. -/
abbrev Text := List Char

end Sys2Proof
end

