-- ==== Sys2Proof/Syntax.lean ====
section
/-!
DEFINITION. The instructions: one constructor for each row of spec/opcode_table.json (30_encoding.md R77). A field holds
bits the word carries, whether or not the operation uses them (R75).
-/

namespace Sys2Proof

/-- One instruction word, decoded. -/
inductive Instr where
  /-- R101, opcode 1. -/
  | load (a : Address)
  /-- R102, opcode 2. -/
  | store (a : Address)
  /-- R107, opcode 3. -/
  | add (a : Address)
  /-- R108, opcode 4. -/
  | subtract (a : Address)
  /-- R110, opcode 5; the bits `x` are ignored. -/
  | input (x : Address)
  /-- R111, opcode 6; the bits `x` are ignored. -/
  | output (x : Address)
  /-- R114, the word 3840 alone. -/
  | halt
  /-- R115, opcode 15 with an address field that is not 0. -/
  | op15Nop (x : Address)
  /-- R116, opcode 0. -/
  | unknown0 (x : Address)
  /-- R116, opcode 7. -/
  | unknown7 (x : Address)
  /-- R116, opcode 8. -/
  | unknown8 (x : Address)
  /-- R116, opcode 9. -/
  | unknown9 (x : Address)
  /-- R116, opcode 10. -/
  | unknown10 (x : Address)
  /-- R116, opcode 11. -/
  | unknown11 (x : Address)
  /-- R116, opcode 12. -/
  | unknown12 (x : Address)
  /-- R116, opcode 13. -/
  | unknown13 (x : Address)
  /-- R116, opcode 14. -/
  | unknown14 (x : Address)
  /-- R116, any opcode below 0 or above 15: a word outside the 12-bit pattern. -/
  | unknownWide (opcode : Int) (x : Address)
  deriving DecidableEq, Repr

end Sys2Proof
end

