-- ==== Sys2Proof/WellFormed.lean ====
section
/-!
DEFINITION. Which terms of Instr stand for a word: an opcode-15 word that is not the sentinel has a non-zero address field
(44_control.md R115), and the opcode of a wide word lies outside 0..15 (R116).
-/

namespace Sys2Proof

/-- The term is the decoding of some word. -/
def Instr.wf : Instr → Bool
  | .op15Nop x => x != 0#8
  | .unknownWide opcode _ => decide (opcode < 0) || decide (16 ≤ opcode)
  | .load _ | .store _ | .add _ | .subtract _ | .input _ | .output _ | .halt => true
  | .unknown0 _ | .unknown7 _ | .unknown8 _ | .unknown9 _ | .unknown10 _ | .unknown11 _ => true
  | .unknown12 _ | .unknown13 _ | .unknown14 _ => true

end Sys2Proof
end

