-- ==== Sys2Proof/Decode.lean ====
section
/-!
DEFINITION. The Instruction Codec (30_encoding.md): the decoder, the encoder and the Instruction Assembler API, on unbounded
integers (00_scope.md R11, R12).
-/

namespace Sys2Proof

/-- `w >> 8`: the opcode field, all bits above bit 7, by floor division (R69, R72, R12). -/
def opcodeField (w : Int) : Int := w / 256

/-- `w & 0xFF`: the address field, bits 7:0 (R69, R72). -/
def addressField (w : Int) : Address := BitVec.ofInt 8 w

/-- The instruction an opcode and an address field stand for (R77), with the sentinel told apart by its whole word (R78). -/
def instrOf (opcode : Int) (a : Address) : Instr :=
  if opcode = 1 then .load a
  else if opcode = 2 then .store a
  else if opcode = 3 then .add a
  else if opcode = 4 then .subtract a
  else if opcode = 5 then .input a
  else if opcode = 6 then .output a
  else if opcode = 15 then (if a = 0#8 then .halt else .op15Nop a)
  else if opcode = 0 then .unknown0 a
  else if opcode = 7 then .unknown7 a
  else if opcode = 8 then .unknown8 a
  else if opcode = 9 then .unknown9 a
  else if opcode = 10 then .unknown10 a
  else if opcode = 11 then .unknown11 a
  else if opcode = 12 then .unknown12 a
  else if opcode = 13 then .unknown13 a
  else if opcode = 14 then .unknown14 a
  else .unknownWide opcode a

/-- The decoder on an integer word: total (R72, R79). -/
def decodeWord (w : Int) : Instr := instrOf (opcodeField w) (addressField w)

/-- Why a cell's value has no decoding. -/
inductive DecodeReject where
  /-- The cell holds `Invalid`, which is no integer word: the cycle faults AF_DECODE before it decodes (R73). -/
  | notAWord
  deriving DecidableEq, Repr

/-- The decoder on a cell's value: every integer decodes, `Invalid` is rejected by name. -/
def decode : Value → Except DecodeReject Instr
  | .int w => .ok (decodeWord w)
  | .invalid => .error .notAWord

/-- `encode(opcode, address)` of R71, on unbounded integers; nothing is validated. -/
def encodeFields (opcode address : Int) : Int := opcode * 256 + address % 256

/-- The opcode value of an instruction (R77). -/
def Instr.opcode : Instr → Int
  | .load _ => 1
  | .store _ => 2
  | .add _ => 3
  | .subtract _ => 4
  | .input _ => 5
  | .output _ => 6
  | .halt => 15
  | .op15Nop _ => 15
  | .unknown0 _ => 0
  | .unknown7 _ => 7
  | .unknown8 _ => 8
  | .unknown9 _ => 9
  | .unknown10 _ => 10
  | .unknown11 _ => 11
  | .unknown12 _ => 12
  | .unknown13 _ => 13
  | .unknown14 _ => 14
  | .unknownWide opcode _ => opcode

/-- The address field an instruction's word carries (R69); the sentinel's is 0 (R78). -/
def Instr.address : Instr → Address
  | .load a | .store a | .add a | .subtract a => a
  | .input x | .output x | .op15Nop x => x
  | .halt => 0#8
  | .unknown0 x | .unknown7 x | .unknown8 x | .unknown9 x | .unknown10 x | .unknown11 x => x
  | .unknown12 x | .unknown13 x | .unknown14 x => x
  | .unknownWide _ x => x

/-- The word of a well-formed instruction (R71, R77). -/
def encode (i : Instr) : Int := encodeFields i.opcode i.address.index

/-- The halt sentinel, 0xF00 (R78). -/
def haltWord : Int := 3840

/-- `LOAD(address)` of the Instruction Assembler API (R81). -/
def asmLoad (address : Int) : Int := encodeFields 1 address

/-- `STORE(address)` of the Instruction Assembler API (R81). -/
def asmStore (address : Int) : Int := encodeFields 2 address

/-- `ADD(address)` of the Instruction Assembler API (R81). -/
def asmAdd (address : Int) : Int := encodeFields 3 address

/-- `SUBTRACT(address)` of the Instruction Assembler API (R81). -/
def asmSubtract (address : Int) : Int := encodeFields 4 address

/-- `INPUT()` of the Instruction Assembler API (R81). -/
def asmInput : Int := encodeFields 5 0

/-- `OUTPUT()` of the Instruction Assembler API (R81). -/
def asmOutput : Int := encodeFields 6 0

/-- `HALT()` of the Instruction Assembler API (R81). -/
def asmHalt : Int := encodeFields 15 0

/-- The integer word whose bits are the low `nbits` bits of `w`, numbered as the opcode table numbers them: one cell holds the
whole word, so there is no byte order (R49, R68). Log entry 19. -/
def tableWord (nbits w : Nat) : Int := ((w % 2 ^ nbits : Nat) : Int)

/-- What the decoder reads from the word `tableWord nbits w`. -/
def decodeTableWord (nbits w : Nat) : Option Instr :=
  match decode (.int (tableWord nbits w)) with
  | .ok i => some i
  | .error _ => none

end Sys2Proof
end

