-- ==== Sys2Proof/Machine/Alu.lean ====
section
/-!
DEFINITION. The accumulator ALU (42_arithmetic.md R105, R106): exact addition and subtraction, with `Invalid` kept. It sets no
flag, since the hardware has none (10_state.md R21).
-/

namespace Sys2Proof.Machine

/-- `AluAdd` (R105). -/
def aluAdd : Value → Value → Value
  | .int x, .int y => .int (x + y)
  | .int _, .invalid => .invalid
  | .invalid, _ => .invalid

/-- `AluSub` (R105): the first less the second. -/
def aluSub : Value → Value → Value
  | .int x, .int y => .int (x - y)
  | .int _, .invalid => .invalid
  | .invalid, _ => .invalid

end Sys2Proof.Machine
end

