-- ==== Sys2Proof/Config.lean ====
section
/-!
DEFINITION. The configuration record (00_scope.md R7, R8) and the free values the spec leaves open (R9). A free value is an
opaque constant without a body: nothing can be proved of its value.
-/

namespace Sys2Proof

/-- The legal values of `parseTo` (R8). -/
inductive Base where
  | hexadecimal
  | decimal
  | binary
  | octal
  deriving DecidableEq, Repr, Inhabited

/-- The configuration record of R8, chosen at construction and never changed afterwards (R7, R34). -/
structure Configuration where
  memorySize : Nat
  errorLogging : Bool
  debug : Bool
  logging : Bool
  parseTo : Base
  deriving DecidableEq, Repr

/-- The defaults of R8. -/
def Configuration.standard : Configuration where
  memorySize := 4096
  errorLogging := false
  debug := false
  logging := true
  parseTo := .hexadecimal

/-- `OOR_READ` (R9, R58): the value of the n-th draw, for a read at this index outside the Word Store. Log entry 5. -/
opaque Config.oorRead : Nat → Int → Value

/-- `INPUT_FAULT_AC` (R9, R110): whether the n-th draw keeps the old `AC` (else `Invalid`). Log entry 6. -/
opaque Config.inputFaultKeepsAc : Nat → Bool

/-- `TRACE_INPUT` (R9, R35): whether a completed INPUT appends a trace entry. Log entry 7. -/
opaque Config.traceInput : Bool

/-- The formatting collaborator before the one limit the spec sets it (R9, R112). Log entry 8. -/
opaque Config.fmtRaw : Base → Int → Text

end Sys2Proof
end

