-- ==== Sys2Proof/Machine/State.lean ====
section
/-!
DEFINITION. The state of the Marie.js core (10_state.md), plain data, and the state after construction (70_reset_and_hazards.md R135).
-/

namespace Sys2Proof.Machine

/-- Why the addressing-fault check fails (20_memory.md R53). -/
inductive CheckKind where
  /-- The value is `Invalid`. -/
  | notInteger
  /-- The value is an integer outside [0, N) while `errorLogging` is on. -/
  | outOfRange
  deriving DecidableEq, Repr

/-- The answer of the addressing-fault check (R53); a pass carries the integer that passed. -/
inductive CheckResult where
  | pass (z : Int)
  | fault (kind : CheckKind)
  deriving DecidableEq, Repr

/-- The faults of 60_exceptions.md R118, one for each raising site. Codes 1 to 5 are TAKEN, as a next state with an `EDiag`
event and the run state `Faulted` (R121), and are then no stop of the model (log entry 2). -/
inductive Fault where
  /-- Code 1. Raised by cycle step 1 on `PC` (R86); taken as a next state. Exact, so safe. -/
  | afFetch (kind : CheckKind)
  /-- Code 2. Raised by cycle step 3 on the fetched word (R88); taken as a next state. Exact, so safe. -/
  | afDecode (kind : CheckKind)
  /-- Code 3. Raised by LOAD, STORE, ADD, SUBTRACT on the address field; taken as a next state. Exact, so safe. -/
  | afOperand (kind : CheckKind)
  /-- Code 4. Raised by OUTPUT on `AC` (R111); taken as a next state. Exact, so safe. -/
  | afOutput (kind : CheckKind)
  /-- Code 5. Raised by INPUT on an unparseable reply with `errorLogging` (R110); taken as a next state. Exact, so safe. -/
  | inputParse
  /-- Code 6. Answered by `loadProgram` on an argument that is no sequence (R126, R137); the step that serves the call goes on
  and records it as the call's answer. Exact, so safe. -/
  | loaderType
  deriving DecidableEq, Repr

/-- Why the model gives a step no meaning (00_scope.md R14: toward unprovable). -/
inductive Refusal where
  /-- An instruction without a meaning in exec. Every instruction has one, so nothing raises it. Safe. -/
  | notModelled (mnemonic : String)
  /-- Raised by STORE with an address the check let pass outside the Word Store (20_memory.md R59). Safe. -/
  | outOfRangeWrite (index : Int)
  /-- Raised by the call Run while the run state is `Faulted` (40_cycle.md R83, R125). Safe. -/
  | runAfterFault
  /-- Raised by the Program Loader on a sequence longer than the Word Store (70_reset_and_hazards.md R137). Safe. -/
  | loadOverflow
  /-- Raised by construction with a memorySize that is no integer of at least 1 (R134). Safe. -/
  | badMemorySize
  /-- Raised by construction with a parseTo that is none of the four bases (R134). Safe. -/
  | badParseTo
  /-- Raised by a host write to a cell outside 0..N-1, which 10_state.md R45 does not give the host. Safe. Log entry 15. -/
  | hostCellAbsent (index : Int)
  deriving DecidableEq, Repr

/-- The run state `RS` (R32). -/
inductive RunState where
  | idle
  | running
  | halted
  | faulted
  deriving DecidableEq, Repr

/-- A reply of the input channel (R38). -/
inductive Reply where
  | int (z : Int)
  | unparseable
  deriving DecidableEq, Repr

/-- An abstract trace entry (R35). -/
inductive TraceEntry where
  | load (ac : Value)
  | store (address : Value) (v : Value)
  | add (ac : Value)
  | sub (ac : Value)
  | output (ac : Value) (text : Text)
  | input (ac : Value)
  deriving DecidableEq, Repr

/-- The recorded value of a diagnostic (R118): the checked value for codes 1 to 4, the reply for code 5. -/
inductive Offender where
  | value (v : Value)
  | reply (r : Reply)
  deriving DecidableEq, Repr

/-- A host-visible event (R37). -/
inductive Event where
  | trace (entry : TraceEntry)
  | inputRequest
  | inputReply (r : Reply)
  | diag (code : Fault) (offender : Offender)
  | done
  | debug (pc : Value)
  deriving DecidableEq, Repr

/-- The names of the six registers (R20). -/
inductive RegName where
  | ac
  | mq
  | pc
  | ir
  | mar
  | mdr
  deriving DecidableEq, Repr

/-- What the host hands the Program Loader (R137). -/
inductive LoadArg where
  | sequence (words : List Value)
  | notSequence
  deriving DecidableEq, Repr

/-- A call the host makes between runs: the ports LOADPROG, HOSTWRITE (a register or a cell) and RUN of R40. -/
inductive HostCall where
  | loadProgram (arg : LoadArg)
  | writeReg (r : RegName) (v : Value)
  | writeCell (index : Int) (v : Value)
  | run
  deriving DecidableEq, Repr

/-- The answer of the port LOADPROG (R40): ok, or the fault the load call failed with (R126). -/
inductive LoadAnswer where
  | ok
  | failed (f : Fault)
  deriving DecidableEq, Repr

/-- The Word Store (R29): the cells that do not hold `Int(0)`, by rising index. An unlisted cell holds `Int(0)`, the value of
every cell at construction (R135). Log entry 1. -/
abbrev Memory := List (Nat × Value)

/-- The machine. -/
@[ext]
structure State where
  /-- Accumulator (R20). -/
  ac : Value
  /-- Multiplier/quotient register (R20, R28). -/
  mq : Value
  /-- Program counter (R20, R27). -/
  pc : Value
  /-- Instruction register (R20). -/
  ir : Value
  /-- Memory address register (R20, R26). -/
  mar : Value
  /-- Memory data register (R20, R25). -/
  mdr : Value
  /-- The Word Store (R29). -/
  mem : Memory
  /-- The run state (R32). -/
  rs : RunState
  /-- The configuration record (R34). -/
  cfg : Configuration
  /-- The event history `H`, oldest first (R37). -/
  events : List Event
  /-- INPUT waits for a reply (R39). -/
  inputPending : Bool
  /-- The input channel's queue of replies, next first (R38). -/
  replies : List Reply
  /-- The calls the host has yet to make, next first (R40). Log entry 3. -/
  calls : List HostCall
  /-- What the port LOADPROG has answered, oldest first (R40). Log entry 3. -/
  loadAnswers : List LoadAnswer
  /-- The model's own: how many free values have been drawn. Log entry 9. -/
  draws : Nat
  deriving DecidableEq, Repr

/-- The state after construction with a configuration (R135). -/
def State.constructed (c : Configuration) : State where
  ac := .int 0
  mq := .int 0
  pc := .int 0
  ir := .int 0
  mar := .int 0
  mdr := .int 0
  mem := []
  rs := .idle
  cfg := c
  events := []
  inputPending := false
  replies := []
  calls := []
  loadAnswers := []
  draws := 0

/-- The machine right after reset: construction with every option at its default (R134, R135). -/
def State.reset : State := State.constructed Configuration.standard

end Sys2Proof.Machine
end

