-- ==== Sys2Proof/Machine/Ops.lean ====
section
/-!
DEFINITION. The named operations over registers, Word Store and events, the addressing-fault check, taking a fault, and steps 2,
4 and 5 of the cycle (20_memory.md, 40_cycle.md, 60_exceptions.md).
-/

namespace Sys2Proof.Machine

/-! Writes of one field. -/

/-- `AC <- v` (R13, R22). -/
def State.setAc (v : Value) (s : State) : State := { s with ac := v }

/-- `MQ <- v`: only the host writes it (R28). -/
def State.setMq (v : Value) (s : State) : State := { s with mq := v }

/-- `PC <- v`. -/
def State.setPc (v : Value) (s : State) : State := { s with pc := v }

/-- `IR <- v`. -/
def State.setIr (v : Value) (s : State) : State := { s with ir := v }

/-- `MAR <- v`. -/
def State.setMar (v : Value) (s : State) : State := { s with mar := v }

/-- `MDR <- v`. -/
def State.setMdr (v : Value) (s : State) : State := { s with mdr := v }

/-- The Word Store becomes `m`. -/
def State.setMem (m : Memory) (s : State) : State := { s with mem := m }

/-- `RS <- r` (R32). -/
def State.setRs (r : RunState) (s : State) : State := { s with rs := r }

/-- `emit e`: append to the event history (R14, R37). -/
def State.emit (e : Event) (s : State) : State := { s with events := s.events ++ [e] }

/-- INPUT begins or ends its wait (R39). -/
def State.setPending (b : Bool) (s : State) : State := { s with inputPending := b }

/-- The queue of replies becomes `rs` (R38). -/
def State.setReplies (rs : List Reply) (s : State) : State := { s with replies := rs }

/-- The host's remaining calls become `cs` (R40). -/
def State.setCalls (cs : List HostCall) (s : State) : State := { s with calls := cs }

/-- The port LOADPROG answers (R40). -/
def State.answerLoad (a : LoadAnswer) (s : State) : State := { s with loadAnswers := s.loadAnswers ++ [a] }

/-- One free value has been drawn. -/
def State.bumpDraws (s : State) : State := { s with draws := s.draws + 1 }

/-! The Word Store as data. -/

/-- What cell `i` holds. -/
def Memory.read : Memory → Nat → Value
  | [], _ => .int 0
  | (k, v) :: m, i => if k = i then v else Memory.read m i

/-- The list without cell `i`. -/
def Memory.drop (m : Memory) (i : Nat) : Memory := m.filter fun e => decide (e.1 ≠ i)

/-- The list with cell `i` put before the first larger index. -/
def Memory.place : Memory → Nat → Value → Memory
  | [], i, v => [(i, v)]
  | (k, u) :: m, i, v => if i < k then (i, v) :: (k, u) :: m else (k, u) :: Memory.place m i v

/-- Cell `i` becomes `v`; writing `Int(0)`, what an unlisted cell holds, takes the entry out. -/
def Memory.write (m : Memory) (i : Nat) (v : Value) : Memory :=
  if v = .int 0 then Memory.drop m i else Memory.place (Memory.drop m i) i v

/-- The loader's copy (R137): the words go to cell `i` and the cells after it. -/
def Memory.writeAll : Memory → Nat → List Value → Memory
  | m, _, [] => m
  | m, i, v :: vs => Memory.writeAll (Memory.write m i v) (i + 1) vs

/-- The canonical form: indices strictly rising, no entry that holds `Int(0)`. -/
abbrev Memory.WF (m : Memory) : Prop := m.Pairwise (fun a b => a.1 < b.1) ∧ ∀ e ∈ m, e.2 ≠ .int 0

/-! The addressing-fault check and the access primitives. -/

/-- The integer is an index of the Word Store: 0 <= z < N (R47, R53). -/
def inStore (c : Configuration) (z : Int) : Bool := decide (0 ≤ z) && decide (z < (c.memorySize : Int))

/-- `Check(v)` (R53). -/
def check (c : Configuration) : Value → CheckResult
  | .invalid => .fault .notInteger
  | .int z => if c.errorLogging = true ∧ inStore c z = false then .fault .outOfRange else .pass z

/-- The value `MemRead(z, 1)` returns (R58): the cell, or a free value when `z` is outside the Word Store. -/
def readCell (z : Int) (s : State) : Value :=
  if inStore s.cfg z = true then Memory.read s.mem z.toNat else Config.oorRead s.draws z

/-- The state after `MemRead(z, 1)` (R58, R60): unchanged, but that a draw has been used. -/
def afterRead (z : Int) (s : State) : State :=
  if inStore s.cfg z = true then s else s.bumpDraws

/-- `MemWrite(z, 1, v)` (R59), then `k`: outside the Word Store it is refused. -/
def memWrite (z : Int) (v : Value) (s : State) (k : State → Host.Outcome State Fault Refusal) :
    Host.Outcome State Fault Refusal :=
  if inStore s.cfg z = true then k (s.setMem (Memory.write s.mem z.toNat v)) else .refused (.outOfRangeWrite z)

/-! Events, faults and the shared steps of the cycle. -/

/-- `trace e`: append a trace entry when `logging` is on (R14, R35). -/
def traceEntry (e : TraceEntry) (s : State) : State :=
  if s.cfg.logging = true then s.emit (.trace e) else s

/-- `raise F(v)`: taking a reported fault (60_exceptions.md R121). Nothing is saved and `PC` stays. There is no return from a
fault (R125), so no operation stands beside this one. -/
def raiseFault (f : Fault) (o : Offender) (s : State) : State :=
  (s.emit (.diag f o)).setRs .faulted

/-- `PC + 1`, exact (R91). `Invalid` stays `Invalid`; no cycle gets there with it, since step 1 faults (log entry 12). -/
def nextPc : Value → Value
  | .int z => .int (z + 1)
  | .invalid => .invalid

/-- The debug hook at the end of step 4 (R92). -/
def debugHook (s : State) : State :=
  if s.cfg.debug = true then s.emit (.debug s.pc) else s

/-- Step 4 of the cycle: `PC <- PC + 1`, then the debug hook (R85, R91, R92). -/
def advance (s : State) : State := debugHook (s.setPc (nextPc s.pc))

/-- Step 5 on the sentinel: `RS <- Halted`, then `EDone` (R85, R93). -/
def haltRun (s : State) : State := (s.setRs .halted).emit .done

/-- Step 2 of the cycle: `MAR <- PC; IR <- MemRead(MAR, 1)`, for a `PC` that passed as the integer `p` (R87). -/
def fetch (p : Int) (s : State) : State :=
  (afterRead p (s.setMar (.int p))).setIr (readCell p (s.setMar (.int p)))

/-- The trace entry an event carries, where it is an `ETrace` (R37). -/
def Event.entry : Event → Option TraceEntry
  | .trace t => some t
  | .inputRequest | .inputReply _ | .diag _ _ | .done | .debug _ => none

/-- The trace log `T` (R35, R37): the trace entries of the event history, in order. Log entry 13. -/
def State.traceLog (s : State) : List TraceEntry := s.events.filterMap Event.entry

/-- The numeric code of a fault (R118). -/
def Fault.code : Fault → Nat
  | .afFetch _ => 1
  | .afDecode _ => 2
  | .afOperand _ => 3
  | .afOutput _ => 4
  | .inputParse => 5
  | .loaderType => 6

end Sys2Proof.Machine
end

