-- ==== Sys2Proof/Machine/Operands.lean ====
section
/-!
DEFINITION. The one operand form of the instruction set: a cell named directly by the address field (30_encoding.md R75), checked
before it is used (20_memory.md R54).
-/

namespace Sys2Proof.Machine

/-- The operand check of LOAD, STORE, ADD and SUBTRACT, then `MAR <- addr`, then `k` with the cell's index. A failing check takes
AF_OPERAND and leaves `MAR` alone (R26, R122). -/
def withOperand (a : Address) (s : State) (k : Int → State → Host.Outcome State Fault Refusal) :
    Host.Outcome State Fault Refusal :=
  match check s.cfg (.int a.index) with
  | .fault kind => .next (raiseFault (.afOperand kind) (.value (.int a.index)) s)
  | .pass z => k z (s.setMar (.int z))

/-- `MDR <- MemRead(MAR, 1)` for `MAR = z` (R101, R107, R108). -/
def readToMdr (z : Int) (s : State) : State := (afterRead z s).setMdr (readCell z s)

end Sys2Proof.Machine
end

