-- ==== Sys2Proof/Machine/Arithmetic.lean ====
section
/-!
DEFINITION. ADD and SUBTRACT (42_arithmetic.md).
-/

namespace Sys2Proof.Machine

/-- ADD (R107). -/
def execAdd (a : Address) (s : State) : Host.Outcome State Fault Refusal :=
  withOperand a s fun z s1 =>
    let s2 := readToMdr z s1
    let s3 := s2.setAc (aluAdd s2.ac s2.mdr)
    .next (advance (traceEntry (.add s3.ac) s3))

/-- SUBTRACT (R108). -/
def execSubtract (a : Address) (s : State) : Host.Outcome State Fault Refusal :=
  withOperand a s fun z s1 =>
    let s2 := readToMdr z s1
    let s3 := s2.setAc (aluSub s2.ac s2.mdr)
    .next (advance (traceEntry (.sub s3.ac) s3))

end Sys2Proof.Machine
end

