-- ==== Sys2Proof/Machine/Control.lean ====
section
/-!
DEFINITION. The control words (44_control.md): HALT and the documented no-ops. None has a handler; they reach the "otherwise"
branch of 40_cycle.md R89.
-/

namespace Sys2Proof.Machine

/-- The "otherwise" branch: no operation, then step 4 (R89, R91). -/
def noOperation (s : State) : Host.Outcome State Fault Refusal := .next (advance s)

/-- HALT (R114): no operation, step 4, and step 5 finds the sentinel (R93). Log entry 11. -/
def execHalt (s : State) : Host.Outcome State Fault Refusal := .next (haltRun (advance s))

/-- A word 3841..4095 (R115). -/
def execOp15Nop (_x : Address) (s : State) : Host.Outcome State Fault Refusal := noOperation s

/-- Opcode 0 (R116). -/
def execUnknown0 (_x : Address) (s : State) : Host.Outcome State Fault Refusal := noOperation s

/-- Opcode 7 (R116). -/
def execUnknown7 (_x : Address) (s : State) : Host.Outcome State Fault Refusal := noOperation s

/-- Opcode 8 (R116). -/
def execUnknown8 (_x : Address) (s : State) : Host.Outcome State Fault Refusal := noOperation s

/-- Opcode 9 (R116). -/
def execUnknown9 (_x : Address) (s : State) : Host.Outcome State Fault Refusal := noOperation s

/-- Opcode 10 (R116). -/
def execUnknown10 (_x : Address) (s : State) : Host.Outcome State Fault Refusal := noOperation s

/-- Opcode 11 (R116). -/
def execUnknown11 (_x : Address) (s : State) : Host.Outcome State Fault Refusal := noOperation s

/-- Opcode 12 (R116). -/
def execUnknown12 (_x : Address) (s : State) : Host.Outcome State Fault Refusal := noOperation s

/-- Opcode 13 (R116). -/
def execUnknown13 (_x : Address) (s : State) : Host.Outcome State Fault Refusal := noOperation s

/-- Opcode 14 (R116). -/
def execUnknown14 (_x : Address) (s : State) : Host.Outcome State Fault Refusal := noOperation s

/-- A word outside 0..4095 (R116). -/
def execUnknownWide (_opcode : Int) (_x : Address) (s : State) : Host.Outcome State Fault Refusal := noOperation s

end Sys2Proof.Machine
end

