-- ==== Sys2Proof/Machine/DataTransfer.lean ====
section
/-!
DEFINITION. LOAD and STORE (41_data_transfer.md). A meaning covers the cycle from dispatch to its end: the handler, then step 4
(log entry 17).
-/

namespace Sys2Proof.Machine

/-- LOAD (R101). -/
def execLoad (a : Address) (s : State) : Host.Outcome State Fault Refusal :=
  withOperand a s fun z s1 =>
    let s2 := readToMdr z s1
    let s3 := s2.setAc s2.mdr
    .next (advance (traceEntry (.load s3.ac) s3))

/-- STORE (R102). -/
def execStore (a : Address) (s : State) : Host.Outcome State Fault Refusal :=
  withOperand a s fun z s1 =>
    memWrite z s1.ac s1 fun s2 => .next (advance (traceEntry (.store s2.mar s2.ac) s2))

end Sys2Proof.Machine
end

