-- ==== Sys2Proof/Machine/InputOutput.lean ====
section
/-!
DEFINITION. INPUT and OUTPUT (43_io.md), with the input channel's wait (10_state.md R38, R39) and the numeric formatter (R112).
-/

namespace Sys2Proof.Machine

/-- The text holds "FF". -/
def hasFF : Text → Bool
  | 'F' :: 'F' :: _ => true
  | _ :: t => hasFF t
  | [] => false

/-- `FMT(base, z)` (R112): free, but that the text for 255 in hexadecimal holds "FF", the one limit the spec sets. Log entry 8. -/
def fmt (b : Base) (z : Int) : Text :=
  if b = .hexadecimal ∧ z = 255 ∧ hasFF (Config.fmtRaw b z) = false then 'F' :: 'F' :: Config.fmtRaw b z
  else Config.fmtRaw b z

/-- INPUT's trace entry, appended only when `TRACE_INPUT` holds (R35, R110). -/
def traceInputEntry (s : State) : State :=
  if Config.traceInput = true then traceEntry (.input s.ac) s else s

/-- `AC <- draw INPUT_FAULT_AC`: the old `AC` or `Invalid` (R110). -/
def drawInputFaultAc (s : State) : State :=
  (s.setAc (if Config.inputFaultKeepsAc s.draws = true then s.ac else .invalid)).bumpDraws

/-- INPUT from `emit EInputReply(r)` on (R110), then step 4 unless it faults. -/
def acceptReply (r : Reply) (s : State) : State :=
  let s1 := s.emit (.inputReply r)
  match r with
  | .int z => advance (traceInputEntry (s1.setAc (.int z)))
  | .unparseable =>
    if s.cfg.errorLogging = true then raiseFault .inputParse (.reply .unparseable) (drawInputFaultAc s1)
    else advance (traceInputEntry (s1.setAc .invalid))

/-- INPUT's wait: with a reply it goes on, without one nothing changes (R39). -/
def awaitReply (s : State) : Host.Outcome State Fault Refusal :=
  match s.replies with
  | [] => .next s
  | r :: rest => .next (acceptReply r ((s.setReplies rest).setPending false))

/-- INPUT (R110): the request, then the wait, which ends at once when a reply is there. The address bits are ignored (R75). -/
def execInput (_x : Address) (s : State) : Host.Outcome State Fault Refusal :=
  awaitReply ((s.emit .inputRequest).setPending true)

/-- OUTPUT (R111). The address bits are ignored (R75). -/
def execOutput (_x : Address) (s : State) : Host.Outcome State Fault Refusal :=
  match check s.cfg s.ac with
  | .fault kind => .next (raiseFault (.afOutput kind) (.value s.ac) s)
  | .pass z => .next (advance (traceEntry (.output s.ac (fmt s.cfg.parseTo z)) s))

end Sys2Proof.Machine
end

