-- ==== Sys2Proof/Machine/Dispatch.lean ====
section
/-!
DEFINITION. The opcode dispatch (40_cycle.md R89): one arm per instruction.
-/

namespace Sys2Proof.Machine

def exec (i : Instr) (s : State) : Host.Outcome State Fault Refusal :=
  match i with
  | .load a => Sys2Proof.Machine.execLoad a s
  | .store a => Sys2Proof.Machine.execStore a s
  | .add a => Sys2Proof.Machine.execAdd a s
  | .subtract a => Sys2Proof.Machine.execSubtract a s
  | .input x => Sys2Proof.Machine.execInput x s
  | .output x => Sys2Proof.Machine.execOutput x s
  | .halt => Sys2Proof.Machine.execHalt s
  | .op15Nop x => Sys2Proof.Machine.execOp15Nop x s
  | .unknown0 x => Sys2Proof.Machine.execUnknown0 x s
  | .unknown7 x => Sys2Proof.Machine.execUnknown7 x s
  | .unknown8 x => Sys2Proof.Machine.execUnknown8 x s
  | .unknown9 x => Sys2Proof.Machine.execUnknown9 x s
  | .unknown10 x => Sys2Proof.Machine.execUnknown10 x s
  | .unknown11 x => Sys2Proof.Machine.execUnknown11 x s
  | .unknown12 x => Sys2Proof.Machine.execUnknown12 x s
  | .unknown13 x => Sys2Proof.Machine.execUnknown13 x s
  | .unknown14 x => Sys2Proof.Machine.execUnknown14 x s
  | .unknownWide opcode x => Sys2Proof.Machine.execUnknownWide opcode x s

end Sys2Proof.Machine
end

