-- ==== Sys2Proof/Machine/HostPort.lean ====
section
/-!
DEFINITION. The host's ports (10_state.md R40 to R46, 70_reset_and_hazards.md R134 to R139, 40_cycle.md R83): construction, the
Program Loader, host writes, the run entry point, input replies and the queries.
-/

namespace Sys2Proof.Machine

/-! Construction. -/

/-- A base as the host names it: one of the four, or another name. -/
inductive BaseName where
  | known (b : Base)
  | other (name : Text)
  deriving DecidableEq, Repr

/-- What the host hands the port CONSTRUCT: each recognised option, or nothing for its default (R134). -/
structure ConstructArg where
  memorySize : Option Value
  errorLogging : Option Bool
  debug : Option Bool
  logging : Option Bool
  parseTo : Option BaseName
  deriving DecidableEq, Repr

/-- The memorySize an option stands for: an integer of at least 1, the default when it is left out (R8, R134). -/
def legalMemorySize : Option Value → Option Nat
  | none => some Configuration.standard.memorySize
  | some .invalid => none
  | some (.int z) => if 1 ≤ z then some z.toNat else none

/-- The base an option stands for (R8, R134). -/
def legalBase : Option BaseName → Option Base
  | none => some Configuration.standard.parseTo
  | some (.known b) => some b
  | some (.other _) => none

/-- Construction (R134, R135): the only reset. -/
def construct (o : ConstructArg) : Host.Outcome State Fault Refusal :=
  match legalMemorySize o.memorySize, legalBase o.parseTo with
  | none, _ => .refused .badMemorySize
  | some _, none => .refused .badParseTo
  | some n, some b => .next (State.constructed {
      memorySize := n
      errorLogging := Option.getD o.errorLogging Configuration.standard.errorLogging
      debug := Option.getD o.debug Configuration.standard.debug
      logging := Option.getD o.logging Configuration.standard.logging
      parseTo := b })

/-! The Program Loader. -/

/-- The sequence with the sentinel appended unless it holds one anywhere (R137, R139). -/
def amendProgram (p : List Value) : List Value :=
  if Value.int haltWord ∈ p then p else p ++ [.int haltWord]

/-- `LoadProgram(p)` (R137): a sequence is copied to the cells from 0; a non-sequence fails the call (R126). -/
def loadProgram (arg : LoadArg) (s : State) : Host.Outcome State Fault Refusal :=
  match arg with
  | .notSequence => .fault .loaderType
  | .sequence p =>
    if (amendProgram p).length ≤ s.cfg.memorySize then .next (s.setMem (Memory.writeAll s.mem 0 (amendProgram p)))
    else .refused .loadOverflow

/-- A load call and its answer (R40): a failed one changes nothing else (R126). -/
def loadCall (arg : LoadArg) (s : State) : Host.Outcome State Fault Refusal :=
  match loadProgram arg s with
  | .next s1 => .next (s1.answerLoad .ok)
  | .fault f => .next (s.answerLoad (.failed f))
  | .refused r => .refused r

/-! Host writes. -/

/-- A host write of a register (R44). -/
def hostWriteReg (r : RegName) (v : Value) (s : State) : State :=
  match r with
  | .ac => s.setAc v
  | .mq => s.setMq v
  | .pc => s.setPc v
  | .ir => s.setIr v
  | .mar => s.setMar v
  | .mdr => s.setMdr v

/-- A host write of a cell 0..N-1 (R45). -/
def hostWriteCell (index : Int) (v : Value) (s : State) : Host.Outcome State Fault Refusal :=
  if inStore s.cfg index = true then .next (s.setMem (Memory.write s.mem index.toNat v)) else .refused (.hostCellAbsent index)

/-! The run entry point and the serving of calls. -/

/-- The start of `Run()` (R83): from `Faulted` it is refused, else `RS <- Running` and nothing is reset. -/
def runEntry (s : State) : Host.Outcome State Fault Refusal :=
  if s.rs = .faulted then .refused .runAfterFault else .next (s.setRs .running)

/-- One call of the host (R40). -/
def performCall (c : HostCall) (s : State) : Host.Outcome State Fault Refusal :=
  match c with
  | .loadProgram arg => loadCall arg s
  | .writeReg r v => .next (hostWriteReg r v s)
  | .writeCell index v => hostWriteCell index v s
  | .run => runEntry s

/-- Outside a run, the host's next call is served; without one the core rests. Log entry 3. -/
def serveHost (s : State) : Host.Outcome State Fault Refusal :=
  match s.calls with
  | [] => .next s
  | c :: rest => performCall c (s.setCalls rest)

/-- The host makes one more call when its earlier ones have returned (R40): the environment's act, not a step. -/
def hostCall (c : HostCall) (s : State) : State := s.setCalls (s.calls ++ [c])

/-- The host supplies one more reply to the input channel (R38): the environment's act, not a step. -/
def supplyReply (r : Reply) (s : State) : State := s.setReplies (s.replies ++ [r])

/-! The queries. -/

/-- The six registers at one moment (R42). -/
structure RegSnapshot where
  ac : Value
  mq : Value
  pc : Value
  ir : Value
  mar : Value
  mdr : Value
  deriving DecidableEq, Repr

/-- The register query (R42). -/
def queryRegs (s : State) : RegSnapshot where
  ac := s.ac
  mq := s.mq
  pc := s.pc
  ir := s.ir
  mar := s.mar
  mdr := s.mdr

/-- The memory query at one index, as the cell is at this time (R41); there is no cell outside 0..N-1. -/
def queryMem (s : State) (index : Int) : Option Value :=
  if inStore s.cfg index = true then some (Memory.read s.mem index.toNat) else none

/-- The trace query (R43). -/
def queryTrace (s : State) : List TraceEntry := s.traceLog

end Sys2Proof.Machine
end

