-- ==== Sys2Proof/Machine/Cycle.lean ====
section
/-!
DEFINITION. One cycle of the Cycle Controller (40_cycle.md R85) and one move of the whole machine.
-/

namespace Sys2Proof.Machine

/-- Steps 3 to 5 on the state after the fetch: the decode check on `IR`, then the decoded instruction (R88, R89). -/
def decodeAndExecute (s : State) : Host.Outcome State Fault Refusal :=
  match check s.cfg s.ir with
  | .fault kind => .next (raiseFault (.afDecode kind) (.value s.ir) s)
  | .pass w => exec (decodeWord w) s

/-- `Cycle()` (R85): the check on `PC`, the fetch, then the rest. -/
def cycle (s : State) : Host.Outcome State Fault Refusal :=
  match check s.cfg s.pc with
  | .fault kind => .next (raiseFault (.afFetch kind) (.value s.pc) s)
  | .pass p => decodeAndExecute (fetch p s)

/-- One move: a cycle while a run is in progress (the rest of INPUT's cycle while it waits, R39), else the host's next call. -/
def move (s : State) : Host.Outcome State Fault Refusal :=
  match s.rs with
  | .running => if s.inputPending = true then awaitReply s else cycle s
  | .idle | .halted | .faulted => serveHost s

/-- The cell the next cycle fetches from, made to lie in the Word Store: `PC` where it does, else 0. -/
def fetchIndex (s : State) : Nat :=
  match s.pc with
  | .int z => if inStore s.cfg z = true then z.toNat else 0
  | .invalid => 0

/-- A run in progress at the start of a cycle whose fetch reads the integer word `w`. Log entry 14. -/
def placeWord (w : Int) (s : State) : State :=
  (((s.setPc (.int (fetchIndex s))).setMem (Memory.write s.mem (fetchIndex s) (.int w))).setRs .running).setPending false

end Sys2Proof.Machine
end

