-- ==== Sys2Proof/Machine/Step.lean ====
section
/-!
DEFINITION. The step of the machine, and the placing of one instruction word where it fetches.
-/

namespace Sys2Proof.Machine

/-- One step: a cycle of the Cycle Controller, a moment of INPUT's wait, or one call of the host. -/
def step (s : State) : Host.Outcome State Fault Refusal := move s

/-- `s` with the table's word where the next step fetches it. -/
def State.withFetchWord (s : State) (nbits w : Nat) : State := placeWord (tableWord nbits w) s

end Sys2Proof.Machine
end

