-- ==== Sys2Proof/Safety.lean ====
section
/-!
DEFINITION. The terms claims are stated in: what a cycle is about to run, what it appends to the event history, and the invariant
of the machine.
-/

namespace Sys2Proof.Machine

/-- A run is in progress, the cycle is at its start, `PC` is `p` and passes the check, the fetch reads the integer word `w`, and
`w` passes the decode check (40_cycle.md R85): the cycle gets as far as running the instruction `w` stands for. -/
def Fetches (s : State) (p w : Int) : Prop :=
  s.rs = .running ∧ s.inputPending = false ∧ s.pc = .int p ∧ check s.cfg (.int p) = .pass p ∧ readCell p s = .int w ∧
    check s.cfg (.int w) = .pass w

/-- A Word Store access at `z` does not fault: it is inside the store, or `errorLogging` is off (20_memory.md R53). -/
def Unfaulted (c : Configuration) (z : Int) : Prop := c.errorLogging = false ∨ inStore c z = true

/-- What a cycle that completes appends for its trace entries, under the configuration (10_state.md R35). -/
def tracesShown (c : Configuration) (entries : List TraceEntry) : List Event :=
  if c.logging = true then entries.map .trace else []

/-- What a cycle that completes appends for the debug hook with the advanced `PC` (R92). -/
def debugShown (c : Configuration) (pc : Value) : List Event :=
  if c.debug = true then [.debug pc] else []

/-- Every listed cell is a cell of the Word Store (10_state.md R29, R30). -/
def CellsInside (s : State) : Prop := ∀ e ∈ s.mem, e.1 < s.cfg.memorySize

/-- While INPUT waits, a run is in progress, the fetched word is an INPUT word, `MAR` and `PC` hold its index and the request is
the last event (R39, R110). -/
def WaitSound (s : State) : Prop :=
  s.inputPending = true →
    s.rs = .running ∧ (∃ w, s.ir = .int w ∧ opcodeField w = 5) ∧ (∃ p, s.pc = .int p ∧ s.mar = .int p) ∧
      s.events.getLast? = some .inputRequest

/-- The two ends of a run show in the event history (R33), and nothing does before the first run. -/
def EndsShown (s : State) : Prop :=
  (s.rs = .idle → s.events = []) ∧ (s.rs = .halted → s.events.getLast? = some .done) ∧
    (s.rs = .faulted → ∃ f o, s.events.getLast? = some (.diag f o))

/-- The invariant of the machine: the Word Store in its canonical form and inside 0..N-1, N at least 1, a sound wait, and the ends
of runs shown. -/
structure Inv (s : State) : Prop where
  canonical : Memory.WF s.mem
  inside : CellsInside s
  size : 1 ≤ s.cfg.memorySize
  wait : WaitSound s
  ends : EndsShown s

/-- The machine moves on: the step is neither a fault nor a refusal. -/
def StepSafe (s : State) : Prop := ∃ t, step s = .next t

/-- The outcome with its next state changed by `f`. -/
def mapNext (f : State → State) : Host.Outcome State Fault Refusal → Host.Outcome State Fault Refusal
  | .next s => .next (f s)
  | .fault r => .fault r
  | .refused r => .refused r

/-- The state with `debug` set to `b`. -/
def State.withDebug (b : Bool) (s : State) : State := { s with cfg := { s.cfg with debug := b } }

/-- The state with `logging` set to `b`. -/
def State.withLogging (b : Bool) (s : State) : State := { s with cfg := { s.cfg with logging := b } }

/-- The state with `errorLogging` set to `b`. -/
def State.withErrorLogging (b : Bool) (s : State) : State := { s with cfg := { s.cfg with errorLogging := b } }

/-- The state without its debug events. -/
def State.dropDebug (s : State) : State :=
  { s with events := s.events.filter fun e => match e with
    | .debug _ => false
    | _ => true }

/-- The state without its trace events. -/
def State.dropTraces (s : State) : State :=
  { s with events := s.events.filter fun e => match e with
    | .trace _ => false
    | _ => true }

end Sys2Proof.Machine
end

