-- ==== Sys2Proof/Certificates/Slice0/Obligations.lean ====
section
/-!
DEFINITION. The statements for the provers. Each docstring names the rules it formalises. "Opcode" and "address" are the fields of
30_encoding.md R69; a cycle's start, and a word that gets as far as execution, are `Fetches` of Sys2Proof/Safety.lean.
-/

open Sys2Proof Sys2Proof.Machine

/-! Encoding. -/

/-- Every well-formed instruction, of every family and with every operand, is read back from its word (R71, R72, R77). -/
def Obligations.DecodeOfEncode : Prop :=
  ∀ i : Instr, i.wf = true → decodeWord (encode i) = i ∧ decode (.int (encode i)) = .ok i

/-- Every integer word decodes to a well-formed instruction, and its word is that word again (R72, R79). -/
def Obligations.EncodeOfDecode : Prop :=
  ∀ w : Int, (decodeWord w).wf = true ∧ encode (decodeWord w) = w

/-- R76. -/
def Obligations.CodecFieldsRoundTrip : Prop :=
  (∀ op a : Int, opcodeField (encodeFields op a) = op ∧ (addressField (encodeFields op a)).index = a % 256) ∧
    (∀ op a : Int, op ∈ [1, 2, 3, 4, 5, 6, 15] → 0 ≤ a → a < 256 → (addressField (encodeFields op a)).index = a)

/-- R71: the encoder in its two forms, with the rule's examples. -/
def Obligations.EncoderShiftsAndMasks : Prop :=
  (∀ op a : Int, encodeFields op a = Int.lor (op <<< (8 : Nat)) (Int.land a 0xFF) ∧ encodeFields op a = op * 256 + a % 256) ∧
    encodeFields 1 300 = encodeFields 1 44 ∧ encodeFields 1 44 = 300 ∧ encodeFields 1 (-1) = 511

/-- R72: the two fields of any integer word in their two forms, with the rule's example. -/
def Obligations.DecoderShiftsAndMasks : Prop :=
  (∀ w : Int, opcodeField w = w >>> (8 : Nat) ∧ opcodeField w = w / 256 ∧ (addressField w).index = Int.land w 0xFF ∧
      (addressField w).index = w % 256 ∧ 0 ≤ (addressField w).index ∧ (addressField w).index ≤ 255 ∧
      (decodeWord w).opcode = opcodeField w ∧ (decodeWord w).address = addressField w) ∧
    opcodeField (-1) = -1 ∧ (addressField (-1)).index = 255 ∧ ∀ w : Int, 4096 ≤ w → 16 ≤ opcodeField w

/-- R77: the whole opcode map, and that an opcode outside 1..6 that is not the sentinel's word executes as no operation. -/
def Obligations.OpcodeMap : Prop :=
  ∀ w : Int,
    (opcodeField w = 1 → decodeWord w = .load (addressField w)) ∧
    (opcodeField w = 2 → decodeWord w = .store (addressField w)) ∧
    (opcodeField w = 3 → decodeWord w = .add (addressField w)) ∧
    (opcodeField w = 4 → decodeWord w = .subtract (addressField w)) ∧
    (opcodeField w = 5 → decodeWord w = .input (addressField w)) ∧
    (opcodeField w = 6 → decodeWord w = .output (addressField w)) ∧
    (w = 3840 → decodeWord w = .halt) ∧
    (3841 ≤ w → w ≤ 4095 → decodeWord w = .op15Nop (addressField w)) ∧
    (opcodeField w = 0 → decodeWord w = .unknown0 (addressField w)) ∧
    (opcodeField w = 7 → decodeWord w = .unknown7 (addressField w)) ∧
    (opcodeField w = 8 → decodeWord w = .unknown8 (addressField w)) ∧
    (opcodeField w = 9 → decodeWord w = .unknown9 (addressField w)) ∧
    (opcodeField w = 10 → decodeWord w = .unknown10 (addressField w)) ∧
    (opcodeField w = 11 → decodeWord w = .unknown11 (addressField w)) ∧
    (opcodeField w = 12 → decodeWord w = .unknown12 (addressField w)) ∧
    (opcodeField w = 13 → decodeWord w = .unknown13 (addressField w)) ∧
    (opcodeField w = 14 → decodeWord w = .unknown14 (addressField w)) ∧
    (opcodeField w < 0 ∨ 16 ≤ opcodeField w → decodeWord w = .unknownWide (opcodeField w) (addressField w)) ∧
    (opcodeField w ∉ [1, 2, 3, 4, 5, 6] → w ≠ 3840 → ∀ s : State, exec (decodeWord w) s = .next (advance s))

/-- R78: the sentinel is the one word 3840, no other word of opcode 15 is HALT, and a cycle that gets as far as running its word
halts by the whole word. -/
def Obligations.SentinelIsOneWord : Prop :=
  haltWord = 0xF00 ∧ haltWord = 0b111100000000 ∧ haltWord = encodeFields 15 0 ∧
    (∀ w : Int, decodeWord w = .halt ↔ w = 3840) ∧
    (∀ w : Int, opcodeField w = 15 → w ≠ 3840 → ∃ x, decodeWord w = .op15Nop x) ∧
    ∀ (s t : State) (p w : Int), Fetches s p w → step s = .next t → (t.rs = .halted ↔ w = 3840)

/-- R81: the words of the Instruction Assembler API, for an address of any size, and what they decode to. -/
def Obligations.AssemblerApiWords : Prop :=
  (∀ a : Int,
    (asmLoad a = 256 + a % 256 ∧ asmStore a = 512 + a % 256 ∧ asmAdd a = 768 + a % 256 ∧ asmSubtract a = 1024 + a % 256) ∧
    (decodeWord (asmLoad a) = .load (addressField a) ∧ decodeWord (asmStore a) = .store (addressField a) ∧
      decodeWord (asmAdd a) = .add (addressField a) ∧ decodeWord (asmSubtract a) = .subtract (addressField a))) ∧
    asmInput = 1280 ∧ asmOutput = 1536 ∧ asmHalt = 3840

/-- R75: the address field is used as it is, and the words that ignore it execute alike whatever it holds. -/
def Obligations.AddressFieldUse : Prop :=
  (∀ (w : Int) (s t : State), opcodeField w ∈ [1, 2, 3, 4] → Unfaulted s.cfg (w % 256) →
      exec (decodeWord w) s = .next t → t.mar = .int (w % 256)) ∧
    (∀ w v : Int, opcodeField w = opcodeField v → opcodeField w ∉ [1, 2, 3, 4] → w ≠ 3840 → v ≠ 3840 →
      ∀ s : State, exec (decodeWord w) s = exec (decodeWord v) s)

/-- Words of the spec's own tables (95_test_vectors.md L1.1, L2.1, L2.7, 30_encoding.md R81) decode to the instructions they
stand for. -/
def Obligations.SampleWordsDecode : Prop :=
  decode (.int 266) = .ok (.load 10#8) ∧ decode (.int 511) = .ok (.load 255#8) ∧ decode (.int 524) = .ok (.store 12#8) ∧
    decode (.int 779) = .ok (.add 11#8) ∧ decode (.int 1035) = .ok (.subtract 11#8) ∧ decode (.int 1281) = .ok (.input 1#8) ∧
    decode (.int 1536) = .ok (.output 0#8) ∧ decode (.int 3840) = .ok .halt ∧ decode (.int 3841) = .ok (.op15Nop 1#8) ∧
    decode (.int 255) = .ok (.unknown0 255#8) ∧ decode (.int 1792) = .ok (.unknown7 0#8) ∧
    decode (.int 4096) = .ok (.unknownWide 16 0#8) ∧ decode (.int (-257)) = .ok (.unknownWide (-2) 255#8) ∧
    decode .invalid = .error .notAWord

/-! The check, the Word Store and the ALU. -/

/-- R53: the addressing-fault check. -/
def Obligations.AddressingCheck : Prop :=
  ∀ c : Configuration,
    check c .invalid = .fault .notInteger ∧
    (∀ z : Int, c.errorLogging = true → z < 0 ∨ (c.memorySize : Int) ≤ z → check c (.int z) = .fault .outOfRange) ∧
    (∀ z : Int, c.errorLogging = true → 0 ≤ z → z < (c.memorySize : Int) → check c (.int z) = .pass z) ∧
    (∀ z : Int, c.errorLogging = false → check c (.int z) = .pass z)

/-- R59: a Word Store write sets the one cell, or is refused outside the store. -/
def Obligations.WordStoreWrite : Prop :=
  ∀ (z : Int) (v : Value) (s : State),
    (0 ≤ z → z < (s.cfg.memorySize : Int) → ∃ t, memWrite z v s .next = .next t ∧ t = { s with mem := t.mem } ∧
      ∀ n : Nat, Memory.read t.mem n = if (n : Int) = z then v else Memory.read s.mem n) ∧
    (z < 0 ∨ (s.cfg.memorySize : Int) ≤ z → memWrite z v s .next = .refused (.outOfRangeWrite z))

/-- R105: exact sums and differences, and `Invalid` from any `Invalid` operand. -/
def Obligations.AluIsExact : Prop :=
  (∀ x y : Int, aluAdd (.int x) (.int y) = .int (x + y) ∧ aluSub (.int x) (.int y) = .int (x - y)) ∧
    ∀ v : Value, aluAdd v .invalid = .invalid ∧ aluAdd .invalid v = .invalid ∧
      aluSub v .invalid = .invalid ∧ aluSub .invalid v = .invalid

/-! The instructions' results. `exec i s` runs on the state after the fetch and covers the cycle to its end. -/

/-- R101: LOAD, with its word, its two reads and its fault, which no cycle reaches. -/
def Obligations.LoadResult : Prop :=
  ∀ (a : Address) (s : State),
    (encode (.load a) = 256 + (a.toNat : Int) ∧ decodeWord (256 + (a.toNat : Int)) = .load a) ∧
    (∀ (u : State) (p w : Int), Fetches u p w → decodeWord w = .load a → Unfaulted u.cfg a.index) ∧
    (a.toNat < s.cfg.memorySize → exec (.load a) s = .next { s with
        mar := .int a.toNat
        mdr := Memory.read s.mem a.toNat
        ac := Memory.read s.mem a.toNat
        pc := nextPc s.pc
        events := s.events ++ tracesShown s.cfg [.load (Memory.read s.mem a.toNat)] ++ debugShown s.cfg (nextPc s.pc) }) ∧
    (s.cfg.memorySize ≤ a.toNat → s.cfg.errorLogging = false → exec (.load a) s = .next { s with
        mar := .int a.toNat
        mdr := Config.oorRead s.draws a.toNat
        ac := Config.oorRead s.draws a.toNat
        pc := nextPc s.pc
        events := s.events ++ tracesShown s.cfg [.load (Config.oorRead s.draws a.toNat)] ++ debugShown s.cfg (nextPc s.pc)
        draws := s.draws + 1 }) ∧
    (s.cfg.memorySize ≤ a.toNat → s.cfg.errorLogging = true → exec (.load a) s = .next { s with
        rs := .faulted
        events := s.events ++ [.diag (.afOperand .outOfRange) (.value (.int a.toNat))] })

/-- R102: STORE, with its word, its write, its refusal and its fault, which no cycle reaches. Every cell but its own keeps its
value. -/
def Obligations.StoreResult : Prop :=
  ∀ (a : Address) (s : State),
    (encode (.store a) = 512 + (a.toNat : Int) ∧ decodeWord (512 + (a.toNat : Int)) = .store a) ∧
    (∀ (u : State) (p w : Int), Fetches u p w → decodeWord w = .store a → Unfaulted u.cfg a.index) ∧
    (a.toNat < s.cfg.memorySize → ∃ t, exec (.store a) s = .next t ∧
      t = { s with
        mar := .int a.toNat
        mem := t.mem
        pc := nextPc s.pc
        events := s.events ++ tracesShown s.cfg [.store (.int a.toNat) s.ac] ++ debugShown s.cfg (nextPc s.pc) } ∧
      Memory.read t.mem a.toNat = s.ac ∧ ∀ n, n ≠ a.toNat → Memory.read t.mem n = Memory.read s.mem n) ∧
    (s.cfg.memorySize ≤ a.toNat → s.cfg.errorLogging = false → exec (.store a) s = .refused (.outOfRangeWrite a.toNat)) ∧
    (s.cfg.memorySize ≤ a.toNat → s.cfg.errorLogging = true → exec (.store a) s = .next { s with
        rs := .faulted
        events := s.events ++ [.diag (.afOperand .outOfRange) (.value (.int a.toNat))] })

/-- R107: ADD, with its word, its two reads and its fault, which no cycle reaches. -/
def Obligations.AddResult : Prop :=
  ∀ (a : Address) (s : State),
    (encode (.add a) = 768 + (a.toNat : Int) ∧ decodeWord (768 + (a.toNat : Int)) = .add a) ∧
    (∀ (u : State) (p w : Int), Fetches u p w → decodeWord w = .add a → Unfaulted u.cfg a.index) ∧
    (a.toNat < s.cfg.memorySize → exec (.add a) s = .next { s with
        mar := .int a.toNat
        mdr := Memory.read s.mem a.toNat
        ac := aluAdd s.ac (Memory.read s.mem a.toNat)
        pc := nextPc s.pc
        events := s.events ++ tracesShown s.cfg [.add (aluAdd s.ac (Memory.read s.mem a.toNat))] ++
          debugShown s.cfg (nextPc s.pc) }) ∧
    (s.cfg.memorySize ≤ a.toNat → s.cfg.errorLogging = false → exec (.add a) s = .next { s with
        mar := .int a.toNat
        mdr := Config.oorRead s.draws a.toNat
        ac := aluAdd s.ac (Config.oorRead s.draws a.toNat)
        pc := nextPc s.pc
        events := s.events ++ tracesShown s.cfg [.add (aluAdd s.ac (Config.oorRead s.draws a.toNat))] ++
          debugShown s.cfg (nextPc s.pc)
        draws := s.draws + 1 }) ∧
    (s.cfg.memorySize ≤ a.toNat → s.cfg.errorLogging = true → exec (.add a) s = .next { s with
        rs := .faulted
        events := s.events ++ [.diag (.afOperand .outOfRange) (.value (.int a.toNat))] })

/-- R108: SUBTRACT, with its word, its two reads and its fault, which no cycle reaches. -/
def Obligations.SubtractResult : Prop :=
  ∀ (a : Address) (s : State),
    (encode (.subtract a) = 1024 + (a.toNat : Int) ∧ decodeWord (1024 + (a.toNat : Int)) = .subtract a) ∧
    (∀ (u : State) (p w : Int), Fetches u p w → decodeWord w = .subtract a → Unfaulted u.cfg a.index) ∧
    (a.toNat < s.cfg.memorySize → exec (.subtract a) s = .next { s with
        mar := .int a.toNat
        mdr := Memory.read s.mem a.toNat
        ac := aluSub s.ac (Memory.read s.mem a.toNat)
        pc := nextPc s.pc
        events := s.events ++ tracesShown s.cfg [.sub (aluSub s.ac (Memory.read s.mem a.toNat))] ++
          debugShown s.cfg (nextPc s.pc) }) ∧
    (s.cfg.memorySize ≤ a.toNat → s.cfg.errorLogging = false → exec (.subtract a) s = .next { s with
        mar := .int a.toNat
        mdr := Config.oorRead s.draws a.toNat
        ac := aluSub s.ac (Config.oorRead s.draws a.toNat)
        pc := nextPc s.pc
        events := s.events ++ tracesShown s.cfg [.sub (aluSub s.ac (Config.oorRead s.draws a.toNat))] ++
          debugShown s.cfg (nextPc s.pc)
        draws := s.draws + 1 }) ∧
    (s.cfg.memorySize ≤ a.toNat → s.cfg.errorLogging = true → exec (.subtract a) s = .next { s with
        rs := .faulted
        events := s.events ++ [.diag (.afOperand .outOfRange) (.value (.int a.toNat))] })

/-- R110: INPUT, with its words, its wait, its two replies and its fault, whether the reply is there at once or comes during the
wait. Whether a trace entry is appended is the open `TRACE_INPUT`; which value `AC` gets on a parse fault is open between two. -/
def Obligations.InputResult : Prop :=
  (∀ w : Int, 1280 ≤ w → w ≤ 1535 → ∃ x, decodeWord w = .input x) ∧
  ∀ (x : Address) (s : State) (rest : List Reply),
    (s.replies = [] → exec (.input x) s = .next { s with inputPending := true, events := s.events ++ [.inputRequest] }) ∧
    (∀ z : Int, s.replies = .int z :: rest → exec (.input x) s = .next { s with
        ac := .int z
        replies := rest
        inputPending := false
        pc := nextPc s.pc
        events := s.events ++ [.inputRequest, .inputReply (.int z)] ++
          (if Config.traceInput = true then tracesShown s.cfg [.input (.int z)] else []) ++ debugShown s.cfg (nextPc s.pc) }) ∧
    (s.replies = .unparseable :: rest → s.cfg.errorLogging = false → exec (.input x) s = .next { s with
        ac := .invalid
        replies := rest
        inputPending := false
        pc := nextPc s.pc
        events := s.events ++ [.inputRequest, .inputReply .unparseable] ++
          (if Config.traceInput = true then tracesShown s.cfg [.input .invalid] else []) ++ debugShown s.cfg (nextPc s.pc) }) ∧
    (s.replies = .unparseable :: rest → s.cfg.errorLogging = true → ∃ v, (v = s.ac ∨ v = .invalid) ∧
      exec (.input x) s = .next { s with
        ac := v
        replies := rest
        inputPending := false
        rs := .faulted
        draws := s.draws + 1
        events := s.events ++ [.inputRequest, .inputReply .unparseable, .diag .inputParse (.reply .unparseable)] }) ∧
    (s.rs = .running →
      step { s with inputPending := true, events := s.events ++ [.inputRequest] } = exec (.input x) s)

/-- R111 and R112: OUTPUT, with its words, its check and its trace entry; the formatter's one limit. -/
def Obligations.OutputResult : Prop :=
  (∀ w : Int, 1536 ≤ w → w ≤ 1791 → ∃ x, decodeWord w = .output x) ∧ hasFF (fmt .hexadecimal 255) = true ∧
  ∀ (x : Address) (s : State),
    (∀ z : Int, s.ac = .int z → (s.cfg.errorLogging = false ∨ (0 ≤ z ∧ z < (s.cfg.memorySize : Int))) →
      exec (.output x) s = .next { s with
        pc := nextPc s.pc
        events := s.events ++ tracesShown s.cfg [.output (.int z) (fmt s.cfg.parseTo z)] ++ debugShown s.cfg (nextPc s.pc) }) ∧
    (∀ z : Int, s.ac = .int z → s.cfg.errorLogging = true → (z < 0 ∨ (s.cfg.memorySize : Int) ≤ z) →
      exec (.output x) s = .next { s with
        rs := .faulted, events := s.events ++ [.diag (.afOutput .outOfRange) (.value (.int z))] }) ∧
    (s.ac = .invalid → exec (.output x) s = .next { s with
        rs := .faulted, events := s.events ++ [.diag (.afOutput .notInteger) (.value .invalid)] })

/-- R114: HALT, as an instruction and as the whole cycle on the sentinel, with its fault. -/
def Obligations.HaltResult : Prop :=
  decodeWord 3840 = .halt ∧
  (∀ s : State, exec .halt s = .next { s with
      pc := nextPc s.pc
      rs := .halted
      events := s.events ++ debugShown s.cfg (nextPc s.pc) ++ [.done] }) ∧
  (∀ (s : State) (p : Int), Fetches s p 3840 → step s = .next { s with
      mar := .int p
      ir := .int 3840
      pc := .int (p + 1)
      rs := .halted
      events := s.events ++ debugShown s.cfg (.int (p + 1)) ++ [.done]
      draws := (fetch p s).draws }) ∧
  (∀ (s : State) (p : Int), s.rs = .running → s.inputPending = false → s.pc = .int p → 0 ≤ p → p < (s.cfg.memorySize : Int) →
      Memory.read s.mem p.toNat = .int 3840 → s.cfg.errorLogging = true → s.cfg.memorySize ≤ 3840 → step s = .next { s with
      mar := .int p
      ir := .int 3840
      rs := .faulted
      events := s.events ++ [.diag (.afDecode .outOfRange) (.value (.int 3840))] })

/-- R115: a word 3841..4095 is a no-op, as an instruction and as a whole cycle, with its fault. -/
def Obligations.OpcodeFifteenNoOp : Prop :=
  (∀ (x : Address) (s : State), exec (.op15Nop x) s = .next { s with
      pc := nextPc s.pc
      events := s.events ++ debugShown s.cfg (nextPc s.pc) }) ∧
  (∀ (s : State) (p w : Int), 3841 ≤ w → w ≤ 4095 → Fetches s p w → step s = .next { s with
      mar := .int p
      ir := .int w
      pc := .int (p + 1)
      events := s.events ++ debugShown s.cfg (.int (p + 1))
      draws := (fetch p s).draws }) ∧
  (∀ (s : State) (p w : Int), s.rs = .running → s.inputPending = false → s.pc = .int p → 0 ≤ p → p < (s.cfg.memorySize : Int) →
      Memory.read s.mem p.toNat = .int w → 3841 ≤ w → w ≤ 4095 → s.cfg.errorLogging = true → (s.cfg.memorySize : Int) ≤ w →
      step s = .next { s with
      mar := .int p
      ir := .int w
      rs := .faulted
      events := s.events ++ [.diag (.afDecode .outOfRange) (.value (.int w))] })

/-- R116: a word whose opcode is not in 1..6 or 15 is a no-op, as each of its instructions and as a whole cycle, with its faults. -/
def Obligations.UnknownOpcodeNoOp : Prop :=
  (∀ (i : Instr) (op : Int) (x : Address) (s : State),
      i ∈ [.unknown0 x, .unknown7 x, .unknown8 x, .unknown9 x, .unknown10 x, .unknown11 x, .unknown12 x, .unknown13 x,
        .unknown14 x, .unknownWide op x] →
      exec i s = .next { s with
        pc := nextPc s.pc
        events := s.events ++ debugShown s.cfg (nextPc s.pc) }) ∧
  (∀ (s : State) (p w : Int), opcodeField w ∉ [1, 2, 3, 4, 5, 6, 15] → Fetches s p w → step s = .next { s with
      mar := .int p
      ir := .int w
      pc := .int (p + 1)
      events := s.events ++ debugShown s.cfg (.int (p + 1))
      draws := (fetch p s).draws }) ∧
  (∀ (s : State) (p w : Int), s.rs = .running → s.inputPending = false → s.pc = .int p → 0 ≤ p → p < (s.cfg.memorySize : Int) →
      Memory.read s.mem p.toNat = .int w → opcodeField w ∉ [1, 2, 3, 4, 5, 6, 15] → s.cfg.errorLogging = true →
      (w < 0 ∨ (s.cfg.memorySize : Int) ≤ w) → step s = .next { s with
      mar := .int p
      ir := .int w
      rs := .faulted
      events := s.events ++ [.diag (.afDecode .outOfRange) (.value (.int w))] }) ∧
  (∀ (s : State) (p : Int), s.rs = .running → s.inputPending = false → s.pc = .int p → Unfaulted s.cfg p →
      readCell p s = .invalid → step s = .next { s with
      mar := .int p
      ir := .invalid
      rs := .faulted
      draws := (fetch p s).draws
      events := s.events ++ [.diag (.afDecode .notInteger) (.value .invalid)] })

/-! Frames. -/

/-- LOAD, ADD and SUBTRACT leave every cell and everything but `AC`, `MAR`, `MDR`, `PC`, the run state and the events alone; one
that faults leaves those registers alone too (R61, R101, R107, R108, R122). -/
def Obligations.FrameLoadAddSubtract : Prop :=
  ∀ (i : Instr) (a : Address) (s t : State), (i = .load a ∨ i = .add a ∨ i = .subtract a) → exec i s = .next t →
    (t.mq = s.mq ∧ t.ir = s.ir ∧ t.cfg = s.cfg) ∧
    (t.inputPending = s.inputPending ∧ t.replies = s.replies ∧ t.calls = s.calls ∧ t.loadAnswers = s.loadAnswers) ∧
    (∀ n, Memory.read t.mem n = Memory.read s.mem n) ∧
    (t.rs = s.rs ∨ (t.rs = .faulted ∧ t.ac = s.ac ∧ t.mar = s.mar ∧ t.mdr = s.mdr ∧ t.pc = s.pc ∧ t.draws = s.draws))

/-- STORE changes no cell but the one its address field names, and no register but `MAR` and `PC`; one that faults changes
none (R25, R61, R102, R122). -/
def Obligations.FrameStore : Prop :=
  ∀ (a : Address) (s t : State), exec (.store a) s = .next t →
    (t.ac = s.ac ∧ t.mq = s.mq ∧ t.ir = s.ir ∧ t.mdr = s.mdr ∧ t.cfg = s.cfg ∧ t.draws = s.draws) ∧
    (t.inputPending = s.inputPending ∧ t.replies = s.replies ∧ t.calls = s.calls ∧ t.loadAnswers = s.loadAnswers) ∧
    (∀ n : Nat, (n : Int) ≠ a.index → Memory.read t.mem n = Memory.read s.mem n) ∧
    (t.rs = s.rs ∨ (t.rs = .faulted ∧ t.mar = s.mar ∧ t.pc = s.pc ∧ ∀ n, Memory.read t.mem n = Memory.read s.mem n))

/-- INPUT leaves every cell and every register but `AC` and `PC` alone; OUTPUT every register but `PC`, and the input channel
(R61, R110, R111). -/
def Obligations.FrameInputOutput : Prop :=
  ∀ (x : Address) (s t : State),
    (exec (.input x) s = .next t →
      (t.mq = s.mq ∧ t.ir = s.ir ∧ t.mar = s.mar ∧ t.mdr = s.mdr ∧ t.cfg = s.cfg) ∧
      (t.calls = s.calls ∧ t.loadAnswers = s.loadAnswers) ∧ (∀ n, Memory.read t.mem n = Memory.read s.mem n) ∧
      (t.rs = s.rs ∨ (t.rs = .faulted ∧ t.pc = s.pc)) ∧ (t.inputPending = true → t.ac = s.ac ∧ t.pc = s.pc)) ∧
    (exec (.output x) s = .next t →
      (t.ac = s.ac ∧ t.mq = s.mq ∧ t.ir = s.ir ∧ t.mar = s.mar ∧ t.mdr = s.mdr ∧ t.cfg = s.cfg ∧ t.draws = s.draws) ∧
      (t.inputPending = s.inputPending ∧ t.replies = s.replies ∧ t.calls = s.calls ∧ t.loadAnswers = s.loadAnswers) ∧
      (∀ n, Memory.read t.mem n = Memory.read s.mem n) ∧ (t.rs = s.rs ∨ (t.rs = .faulted ∧ t.pc = s.pc)))

/-- HALT and the no-ops leave everything but `PC` and the events alone; HALT alone changes the run state (R61, R114 to R116). -/
def Obligations.FrameControlWords : Prop :=
  ∀ (i : Instr) (s t : State), i.opcode ∉ [1, 2, 3, 4, 5, 6] → exec i s = .next t →
    (t.ac = s.ac ∧ t.mq = s.mq ∧ t.ir = s.ir ∧ t.mar = s.mar ∧ t.mdr = s.mdr ∧ t.cfg = s.cfg ∧ t.draws = s.draws) ∧
    (t.inputPending = s.inputPending ∧ t.replies = s.replies ∧ t.calls = s.calls ∧ t.loadAnswers = s.loadAnswers) ∧
    (∀ n, Memory.read t.mem n = Memory.read s.mem n) ∧ (i ≠ .halt → t.rs = s.rs) ∧ t.traceLog = s.traceLog

/-! Two cycles in a row. -/

/-- R103: a LOAD right after a STORE to the same cell gets what was stored, and both cycles complete; outside the store the STORE is
refused. -/
def Obligations.StoreThenLoad : Prop :=
  (∀ (s s1 : State) (a : Address) (p w q v : Int), a.toNat < s.cfg.memorySize →
    Fetches s p w → decodeWord w = .store a → step s = .next s1 → Fetches s1 q v → decodeWord v = .load a →
    ∃ s2, step s1 = .next s2 ∧ s2.ac = s.ac ∧ s2.mdr = s.ac ∧ q = p + 1 ∧ s2.pc = .int (p + 2) ∧ s2.rs = .running) ∧
  ∀ (s : State) (a : Address) (p w : Int), Fetches s p w → decodeWord w = .store a → s.cfg.memorySize ≤ a.toNat →
    s.cfg.errorLogging = false → step s = .refused (.outOfRangeWrite a.toNat)

/-- R109: an ADD and then a SUBTRACT of one cell leave an integer `AC` as it was; with `Invalid` in either, `AC` ends `Invalid`. -/
def Obligations.AddThenSubtract : Prop :=
  ∀ (s s1 : State) (a : Address) (p w q v : Int), a.toNat < s.cfg.memorySize →
    Fetches s p w → decodeWord w = .add a → step s = .next s1 → Fetches s1 q v → decodeWord v = .subtract a →
    ∃ s2, step s1 = .next s2 ∧
      (∀ x y : Int, s.ac = .int x → Memory.read s.mem a.toNat = .int y → s2.ac = s.ac) ∧
      (s.ac = .invalid ∨ Memory.read s.mem a.toNat = .invalid → s2.ac = .invalid)

/-- A STORE to the very next cell changes what the next cycle fetches; a STORE to its own cell does not change its own `IR` or
effect (R67, R142). -/
def Obligations.StoreIsSeenByNextFetch : Prop :=
  ∀ (s t : State) (p w : Int) (a : Address), Fetches s p w → decodeWord w = .store a → step s = .next t →
    inStore s.cfg a.index = true ∧ readCell a.index t = s.ac ∧ t.ir = .int w ∧ t.pc = .int (p + 1) ∧
    (∀ v : Int, a.index = p + 1 → s.ac = .int v → Unfaulted s.cfg v →
      Fetches t (p + 1) v ∧ step t = exec (decodeWord v) (fetch (p + 1) t))

/-! The cycle. -/

/-- When the word at `PC` gets as far as execution, the step is the decoded instruction on the state after the fetch, and the fetch
writes `MAR` and `IR` and nothing else, but for the count of draws (R85, R87, R88, R89). -/
def Obligations.StepRunsDecoded : Prop :=
  ∀ (s : State) (p w : Int), Fetches s p w →
    decode (.int w) = .ok (decodeWord w) ∧ step s = exec (decodeWord w) (fetch p s) ∧
    fetch p s = { s with mar := .int p, ir := .int w, draws := (fetch p s).draws } ∧
    (inStore s.cfg p = true → .int w = Memory.read s.mem p.toNat ∧ (fetch p s).draws = s.draws)

/-- R86: step 1 faults on a `PC` that is `Invalid`, or outside the Word Store with `errorLogging`, and changes nothing else. -/
def Obligations.FetchFault : Prop :=
  ∀ s : State, s.rs = .running → s.inputPending = false →
    (s.pc = .invalid → step s = .next { s with
      rs := .faulted, events := s.events ++ [.diag (.afFetch .notInteger) (.value .invalid)] }) ∧
    (∀ p : Int, s.pc = .int p → s.cfg.errorLogging = true → (p < 0 ∨ (s.cfg.memorySize : Int) ≤ p) → step s = .next { s with
      rs := .faulted, events := s.events ++ [.diag (.afFetch .outOfRange) (.value (.int p))] }) ∧
    (∀ t, step s = .next t → (∃ k o, t.events.getLast? = some (.diag (.afFetch k) o)) → s.events ≠ t.events →
      s.pc = .invalid ∨ (s.cfg.errorLogging = true ∧ ∃ p : Int, s.pc = .int p ∧ (p < 0 ∨ (s.cfg.memorySize : Int) ≤ p)))

/-- R73: a fetched word that fails the check ends the run `Faulted`, with `MAR` and `IR` written, no handler run and no advance. -/
def Obligations.DecodeFault : Prop :=
  ∀ (s : State) (p : Int), s.rs = .running → s.inputPending = false → s.pc = .int p → Unfaulted s.cfg p →
    (readCell p s = .invalid → step s = .next { s with
      mar := .int p, ir := .invalid, rs := .faulted, draws := (fetch p s).draws
      events := s.events ++ [.diag (.afDecode .notInteger) (.value .invalid)] }) ∧
    (∀ w : Int, readCell p s = .int w → s.cfg.errorLogging = true → (w < 0 ∨ (s.cfg.memorySize : Int) ≤ w) →
      step s = .next { s with
      mar := .int p, ir := .int w, rs := .faulted, draws := (fetch p s).draws
      events := s.events ++ [.diag (.afDecode .outOfRange) (.value (.int w))] })

/-- R95: during a run `PC` moves by exactly one, or stays where the cycle faults or waits; no instruction branches. -/
def Obligations.PcMovesByOneOrStays : Prop :=
  ∀ s t : State, s.rs = .running → step s = .next t →
    (t.pc = s.pc ∧ (t.rs = .faulted ∨ (t.rs = .running ∧ t.inputPending = true))) ∨
      (t.pc = nextPc s.pc ∧ (t.rs = .running ∨ t.rs = .halted) ∧ (s.inputPending = false → ∃ p, s.pc = .int p ∧ t.pc = .int (p + 1)))

/-- R93: a run ends `Halted` exactly when the cycle's fetched word is the sentinel and passes its checks; then the completion
notice is the last event and `PC` is one past the sentinel. -/
def Obligations.HaltsOnTheSentinelAlone : Prop :=
  ∀ s t : State, s.rs = .running → step s = .next t →
    (t.rs = .halted ↔ ∃ p, Fetches s p 3840) ∧
    (∀ p, Fetches s p 3840 → t.pc = .int (p + 1) ∧ t.events = s.events ++ debugShown s.cfg (.int (p + 1)) ++ [.done]) ∧
    (t.rs ≠ .halted → t.events.count .done = s.events.count .done)

/-- R122: a step of a run that faults has taken one of the codes 1, 2, 4, 5, and the changes made before it, and only those, stand;
the unreachable code 3 changes nothing after the fetch either. The premise `Inv` rules out waits that no run reaches. -/
def Obligations.FaultIsPrecise : Prop :=
  (∀ (i : Instr) (a : Address) (s : State), (i = .load a ∨ i = .store a ∨ i = .add a ∨ i = .subtract a) →
    ¬ Unfaulted s.cfg a.index → exec i s = .next { s with
      rs := .faulted, events := s.events ++ [.diag (.afOperand .outOfRange) (.value (.int a.index))] }) ∧
  ∀ s t : State, Inv s → s.rs = .running → step s = .next t → t.rs = .faulted →
    ∃ f o, f.code ∈ [1, 2, 4, 5] ∧
      (t.pc = s.pc ∧ t.mq = s.mq ∧ t.mdr = s.mdr ∧ t.mem = s.mem ∧ t.cfg = s.cfg ∧ t.traceLog = s.traceLog) ∧
      (f.code = 1 → t.mar = s.mar ∧ t.ir = s.ir) ∧
      (f.code ≠ 1 → t.mar = s.pc ∧ (s.inputPending = false → ∃ p, s.pc = .int p ∧ t.ir = readCell p s)) ∧
      (f.code ≠ 5 → t.ac = s.ac ∧ t.replies = s.replies ∧ t.events = s.events ++ [.diag f o]) ∧
      (f.code = 5 → (t.ac = s.ac ∨ t.ac = .invalid) ∧ s.replies = .unparseable :: t.replies ∧
        t.events = s.events ++ (if s.inputPending = true then [] else [.inputRequest]) ++
          [.inputReply .unparseable, .diag .inputParse (.reply .unparseable)])

/-- R125 and R123: a faulted machine stays faulted, whatever the host calls: no step resumes or returns from a fault, Run is refused,
and without a call nothing changes. -/
def Obligations.FaultedIsTerminal : Prop :=
  (∀ s t : State, s.rs = .faulted → step s = .next t → t.rs = .faulted ∧ t.events = s.events) ∧
    (∀ (s : State) (rest : List HostCall), s.rs = .faulted → s.calls = .run :: rest → step s = .refused .runAfterFault) ∧
    ∀ s : State, s.rs = .faulted → s.calls = [] → step s = .next s

/-- With `errorLogging` off a run faults only on an `Invalid` `PC`, an `Invalid` fetched word, or an `Invalid` `AC` at OUTPUT: no
range, reply, opcode or result stops it (R120, R56). -/
def Obligations.OnlyInvalidFaultsUnlogged : Prop :=
  ∀ s t : State, s.cfg.errorLogging = false → s.rs = .running → step s = .next t → t.rs = .faulted →
    s.pc = .invalid ∨ (∃ p, s.pc = .int p ∧ readCell p s = .invalid) ∨
      (∃ p w, Fetches s p w ∧ opcodeField w = 6 ∧ s.ac = .invalid)

/-! Registers over the whole machine. -/

/-- R28: no instruction reads or writes `MQ`: a run's step commutes with a change of `MQ`; only a host write changes it. -/
def Obligations.MqIsUntouched : Prop :=
  (∀ (s : State) (v : Value), s.rs = .running → step (s.setMq v) = mapNext (State.setMq v) (step s)) ∧
    (∀ s t : State, step s = .next t → t.mq ≠ s.mq →
      s.rs ≠ .running ∧ ∃ rest, s.calls = .writeReg .mq t.mq :: rest) ∧
    (∀ (s : State) (v : Value), (queryRegs (s.setMq v)).mq = v)

/-- R25: `MDR` is written by LOAD, ADD and SUBTRACT alone, each with the value just read; STORE and the fetch do not write it. -/
def Obligations.MdrWriters : Prop :=
  (∀ (i : Instr) (s t : State), exec i s = .next t →
    t.mdr = s.mdr ∨ ∃ a, (i = .load a ∨ i = .add a ∨ i = .subtract a) ∧ t.mdr = readCell a.index s) ∧
    (∀ (i : Instr) (a : Address) (s t : State), (i = .load a ∨ i = .add a ∨ i = .subtract a) → Unfaulted s.cfg a.index →
      exec i s = .next t → t.mdr = readCell a.index s) ∧
    (∀ (a : Address) (s t : State), exec (.store a) s = .next t → t.mdr = s.mdr) ∧
    ∀ (p : Int) (s : State), (fetch p s).mdr = s.mdr

/-- R26: the fetch writes `MAR` with the fetch address; LOAD, STORE, ADD and SUBTRACT write it with the operand address unless
their check faults; no other word writes it. -/
def Obligations.MarWriters : Prop :=
  (∀ (p : Int) (s : State), (fetch p s).mar = .int p) ∧
    (∀ (i : Instr) (a : Address) (s t : State), (i = .load a ∨ i = .store a ∨ i = .add a ∨ i = .subtract a) →
      exec i s = .next t →
      (Unfaulted s.cfg a.index → t.mar = .int a.index) ∧ (¬ Unfaulted s.cfg a.index → t.mar = s.mar)) ∧
    (∀ (i : Instr) (s t : State), i.opcode ∉ [1, 2, 3, 4] → exec i s = .next t → t.mar = s.mar)

/-- R30, R34: no step changes the configuration, N in it, and no listed cell lies outside 0..N-1 after a step from a state where
none does. -/
def Obligations.ConfigurationIsFixed : Prop :=
  ∀ s t : State, step s = .next t → t.cfg = s.cfg ∧ (CellsInside s → CellsInside t)

/-! Events. -/

/-- R37: every step only appends to the event history, and the trace log grows by the trace entries appended, in order. -/
def Obligations.EventsOnlyAppend : Prop :=
  ∀ s t : State, step s = .next t → ∃ l, t.events = s.events ++ l ∧
    t.traceLog = s.traceLog ++ l.filterMap Event.entry

/-- R36: HALT, the no-ops, the fetch, the advance, the completion and every fault append no trace entry. -/
def Obligations.SilentInTheTrace : Prop :=
  (∀ (i : Instr) (s t : State), i.opcode ∉ [1, 2, 3, 4, 5, 6] → exec i s = .next t → t.traceLog = s.traceLog) ∧
    ∀ s : State, (∀ p, (fetch p s).traceLog = s.traceLog) ∧ (advance s).traceLog = s.traceLog ∧
      (haltRun s).traceLog = s.traceLog ∧ (∀ f o, (raiseFault f o s).traceLog = s.traceLog)

/-- `logging` changes nothing but whether trace entries are appended (R8, R35): a step under either setting answers the same,
but for its trace events. -/
def Obligations.LoggingOnlyTraces : Prop :=
  ∀ (s : State) (b : Bool),
    (∀ t, step s = .next t → ∃ u, step (s.withLogging b) = .next u ∧ u.dropTraces = (t.withLogging b).dropTraces) ∧
    (∀ r, step s = .refused r → step (s.withLogging b) = .refused r) ∧
    (∀ u, step (s.withLogging false) = .next u → u.traceLog = s.traceLog)

/-- R92: `debug` changes nothing but the debug events: a step under either setting answers the same, but for them, and each
completed advance emits one that carries the advanced `PC`. -/
def Obligations.DebugOnlyEmits : Prop :=
  ∀ (s : State) (b : Bool),
    (∀ t, step s = .next t → ∃ u, step (s.withDebug b) = .next u ∧ u.dropDebug = (t.withDebug b).dropDebug) ∧
    (∀ r, step s = .refused r → step (s.withDebug b) = .refused r) ∧
    (∀ t, step (s.withDebug true) = .next t → s.rs = .running → t.pc ≠ s.pc →
      t.events.count (.debug t.pc) = s.events.count (.debug t.pc) + 1) ∧
    (∀ t v, step (s.withDebug false) = .next t → t.events.count (.debug v) = s.events.count (.debug v))

/-- `errorLogging` changes nothing but whether faults are reported (R8, R53): a step that takes no fault with it on is, with it off,
the same step. -/
def Obligations.ErrorLoggingOnlyFaults : Prop :=
  ∀ s t : State, step (s.withErrorLogging true) = .next t → t.rs ≠ .faulted →
    step (s.withErrorLogging false) = .next (t.withErrorLogging false)

/-! Stops, progress and waiting. -/

/-- A step never answers a fault, since a reported fault is a next state (log entry 2), and it refuses in four ways only. The spec
refuses three: a STORE outside the Word Store (R59), a Run after a fault (R83), an overlong load (R137). The fourth, a host write of
a cell there is not, is the model's choice (log entry 15). -/
def Obligations.StepRefusesInFourWays : Prop :=
  ∀ s : State, (∀ f, step s ≠ .fault f) ∧ ∀ r, step s = .refused r →
    (∃ (p w : Int) (a : Address), Fetches s p w ∧ decodeWord w = .store a ∧ s.cfg.errorLogging = false ∧
        s.cfg.memorySize ≤ a.toNat ∧ r = .outOfRangeWrite a.index) ∨
      (s.rs = .faulted ∧ s.calls.head? = some .run ∧ r = .runAfterFault) ∨
      (s.rs ≠ .running ∧ (∃ p, s.calls.head? = some (.loadProgram (.sequence p)) ∧ s.cfg.memorySize < (amendProgram p).length) ∧
        r = .loadOverflow) ∨
      (s.rs ≠ .running ∧ ∃ i v, s.calls.head? = some (.writeCell i v) ∧ inStore s.cfg i = false ∧ r = .hostCellAbsent i)

/-- A run of a machine with at least 256 cells, or with `errorLogging` on, always has a next state, whatever its memory holds
(R57, R59). -/
def Obligations.RunsNeverStop : Prop :=
  ∀ s : State, s.rs = .running → (256 ≤ s.cfg.memorySize ∨ s.cfg.errorLogging = true) → StepSafe s

/-- R39: a run stands still exactly while INPUT waits and no reply is there. -/
def Obligations.OnlyInputWaits : Prop :=
  ∀ s : State, s.rs = .running → (step s = .next s ↔ s.inputPending = true ∧ s.replies = [])

/-! The host's ports. -/

/-- R83: Run from `Faulted` is refused; from any other end it sets `RS` and resets nothing; during a run no call is served. -/
def Obligations.RunEntry : Prop :=
  ∀ (s : State) (rest : List HostCall),
    (s.rs = .faulted → s.calls = .run :: rest → step s = .refused .runAfterFault) ∧
    (s.rs = .idle ∨ s.rs = .halted → s.calls = .run :: rest → step s = .next { s with calls := rest, rs := .running }) ∧
    (∀ t, s.rs = .running → step s = .next t → t.calls = s.calls ∧ t.loadAnswers = s.loadAnswers)

/-- R137, R138, R139: the Program Loader's whole effect. -/
def Obligations.ProgramLoader : Prop :=
  (∀ (s : State) (rest : List HostCall), s.rs ≠ .running → s.calls = .loadProgram .notSequence :: rest →
    step s = .next { s with calls := rest, loadAnswers := s.loadAnswers ++ [.failed .loaderType] }) ∧
  ∀ (s : State) (p q : List Value) (rest : List HostCall), s.rs ≠ .running → s.calls = .loadProgram (.sequence p) :: rest →
    q = (if Value.int 3840 ∈ p then p else p ++ [.int 3840]) →
    (s.cfg.memorySize < q.length → step s = .refused .loadOverflow) ∧
    (q.length ≤ s.cfg.memorySize → ∃ t, step s = .next t ∧
      t = { s with mem := t.mem, calls := rest, loadAnswers := s.loadAnswers ++ [.ok] } ∧
      (∀ n, (h : n < q.length) → Memory.read t.mem n = q[n]) ∧
      (∀ n, q.length ≤ n → Memory.read t.mem n = Memory.read s.mem n))

/-- R126: a load of a non-sequence fails the call and changes no cell, register, event or run state. -/
def Obligations.LoaderTypeFaultCall : Prop :=
  (∀ s : State, loadProgram .notSequence s = .fault .loaderType) ∧
    ∀ (s : State) (rest : List HostCall), s.rs ≠ .running → s.calls = .loadProgram .notSequence :: rest →
      step s = .next { s with calls := rest, loadAnswers := s.loadAnswers ++ [.failed .loaderType] }

/-- R44, R45: between runs a host write sets the one register, or the one cell 0..N-1, to any value; nothing else makes `PC`, `MAR` or
`MQ` `Invalid`. -/
def Obligations.HostWrites : Prop :=
  (∀ s t : State, step s = .next t →
    (t.pc = .invalid → s.pc = .invalid ∨ (s.rs ≠ .running ∧ s.calls.head? = some (.writeReg .pc .invalid))) ∧
    (t.mar = .invalid → s.mar = .invalid ∨ (s.rs ≠ .running ∧ s.calls.head? = some (.writeReg .mar .invalid))) ∧
    (t.mq = .invalid → s.mq = .invalid ∨ (s.rs ≠ .running ∧ s.calls.head? = some (.writeReg .mq .invalid)))) ∧
  ∀ (s : State) (v : Value) (rest : List HostCall), s.rs ≠ .running →
    (s.calls = .writeReg .ac v :: rest → step s = .next { s with calls := rest, ac := v }) ∧
    (s.calls = .writeReg .mq v :: rest → step s = .next { s with calls := rest, mq := v }) ∧
    (s.calls = .writeReg .pc v :: rest → step s = .next { s with calls := rest, pc := v }) ∧
    (s.calls = .writeReg .ir v :: rest → step s = .next { s with calls := rest, ir := v }) ∧
    (s.calls = .writeReg .mar v :: rest → step s = .next { s with calls := rest, mar := v }) ∧
    (s.calls = .writeReg .mdr v :: rest → step s = .next { s with calls := rest, mdr := v }) ∧
    (∀ z : Int, s.calls = .writeCell z v :: rest → 0 ≤ z → z < (s.cfg.memorySize : Int) → ∃ t, step s = .next t ∧
      t = { s with mem := t.mem, calls := rest } ∧ queryMem t z = some v ∧
      ∀ n : Nat, (n : Int) ≠ z → Memory.read t.mem n = Memory.read s.mem n)

/-- R134: an illegal memorySize or base is refused; a legal argument constructs, with the defaults of R8 where it is silent; and no
step leads back to the state before the first run, so construction is the only reset. -/
def Obligations.Construction : Prop :=
  (∀ s t : State, step s = .next t → t.rs = .idle → s.rs = .idle) ∧
  ∀ o : ConstructArg,
    (o.memorySize = some .invalid ∨ (∃ z : Int, z < 1 ∧ o.memorySize = some (.int z)) → construct o = .refused .badMemorySize) ∧
    (∀ (n : Nat) (name : Text), 1 ≤ n → (o.memorySize = none ∨ o.memorySize = some (.int n)) → o.parseTo = some (.other name) →
      construct o = .refused .badParseTo) ∧
    (∀ (n : Nat) (b : Base), 1 ≤ n → ((o.memorySize = none ∧ n = 4096) ∨ o.memorySize = some (.int n)) →
      ((o.parseTo = none ∧ b = .hexadecimal) ∨ o.parseTo = some (.known b)) → ∃ s, construct o = .next s ∧
      s.cfg = ⟨n, Option.getD o.errorLogging false, Option.getD o.debug false, Option.getD o.logging true, b⟩)

/-- The state right after construction and at reset: the values R135 states. The empty queue of replies, the host's other queues and
the count of draws are the model's (log entries 3, 4, 9) and are not claimed here. -/
def Obligations.ResetValues : Prop :=
  (∀ (o : ConstructArg) (s : State), construct o = .next s →
    (s.ac = .int 0 ∧ s.mq = .int 0 ∧ s.pc = .int 0 ∧ s.ir = .int 0 ∧ s.mar = .int 0 ∧ s.mdr = .int 0) ∧
    (∀ n, Memory.read s.mem n = .int 0) ∧ s.rs = .idle ∧ s.traceLog = [] ∧ s.events = [] ∧ s.inputPending = false ∧
    ((o.memorySize = none ∧ s.cfg.memorySize = 4096) ∨ o.memorySize = some (.int s.cfg.memorySize)) ∧
    s.cfg.errorLogging = Option.getD o.errorLogging false ∧ s.cfg.debug = Option.getD o.debug false ∧
    s.cfg.logging = Option.getD o.logging true ∧
    ((o.parseTo = none ∧ s.cfg.parseTo = .hexadecimal) ∨ o.parseTo = some (.known s.cfg.parseTo))) ∧
    construct ⟨none, none, none, none, none⟩ = .next State.reset ∧
    State.reset.cfg = ⟨4096, false, false, true, .hexadecimal⟩

/-! The invariant and runs. -/

/-- The invariant holds at reset, and after any construction. -/
def Obligations.InvAtReset : Prop :=
  Inv State.reset ∧ ∀ (o : ConstructArg) (s : State), construct o = .next s → Inv s

/-- Every step keeps the invariant: the Word Store's canonical form and bounds, a sound wait, and the shown ends of runs. -/
def Obligations.StepKeepsInv : Prop :=
  ∀ s t : State, Inv s → step s = .next t → Inv t

/-- During a run that the host makes no further call in, `PC` after k steps is the starting `PC` plus at most k, and exactly k where
the run goes on and INPUT does not wait: strictly sequential execution over whole runs (R95, R96). -/
def Obligations.RunIsSequential : Prop :=
  ∀ (k : Nat) (s t : State) (p : Int), s.rs = .running → s.calls = [] → s.pc = .int p → Host.Core.run core k s = .next t →
    ∃ j : Nat, j ≤ k ∧ t.pc = .int (p + j) ∧ (t.rs = .running → t.inputPending = false → j = k)

/-- A run through cells that hold 0 does nothing until it reaches the halt word, and ends there after one cycle for each cell
(R96, R116, R147). -/
def Obligations.ZeroCellsRunToTheHalt : Prop :=
  ∀ (m : Nat) (s : State) (p : Nat), s.rs = .running → s.inputPending = false → s.pc = .int p →
    (p + m < s.cfg.memorySize) → (s.cfg.errorLogging = false ∨ 3840 < s.cfg.memorySize) →
    (∀ n, p ≤ n → n < p + m → Memory.read s.mem n = .int 0) → Memory.read s.mem (p + m) = .int 3840 →
    ∃ t, Host.Core.run core (m + 1) s = .next t ∧ t.rs = .halted ∧ t.pc = .int (p + m + 1) ∧ t.mar = .int (p + m) ∧
      t.ir = .int 3840 ∧ (t.ac = s.ac ∧ t.mq = s.mq ∧ t.mdr = s.mdr ∧ t.mem = s.mem) ∧ t.traceLog = s.traceLog ∧
      t.events.getLast? = some .done
end

