-- ==== Sys2Proof/Laws/Bits.lean ====
section
/-!
SUPPORT. The bitwise operations of the encoding on unbounded integers (00_scope.md R12), in arithmetic.
-/

namespace Sys2Proof

/-- `a & 0xFF`, for an integer of either sign. -/
theorem land_255 (a : Int) : Int.land a 0xFF = a % 256 := by
  cases a with
  | ofNat n =>
    show ((n &&& 255 : Nat) : Int) = _
    have := Nat.and_two_pow_sub_one_eq_mod n 8
    simp only [Nat.reducePow, Nat.reduceSub] at this
    rw [this]; simp
  | negSucc n =>
    show ((Nat.ldiff 255 n : Nat) : Int) = _
    have h : Nat.ldiff 255 n = 255 - n % 256 := by
      apply Nat.eq_of_testBit_eq
      intro i
      rw [Nat.testBit_ldiff]
      have : 255 - n % 256 = 2^8 - (n % 256 + 1) := by omega
      rw [this, Nat.testBit_two_pow_sub_succ (by omega)]
      have : (255 : Nat) = 2^8 - 1 := rfl
      rw [this, Nat.testBit_two_pow_sub_one]
      have : (n % 256) = n % 2^8 := rfl
      rw [this, Nat.testBit_mod_two_pow]
      by_cases hi : i < 8 <;> simp [hi]
    rw [h]
    have : (Int.negSucc n) % 256 = 255 - (n % 256 : Nat) := by omega
    rw [this]; omega

/-- `(a << 8) | b`, for a low part of eight bits. -/
theorem lor_shiftLeft_8 (a b : Int) (h0 : 0 ≤ b) (h1 : b < 256) : Int.lor (a <<< (8:Nat)) b = a * 256 + b := by
  obtain ⟨b, rfl⟩ := Int.eq_ofNat_of_zero_le h0
  have hb : b < 2^8 := by omega
  cases a with
  | ofNat n =>
    show ((n <<< 8 ||| b : Nat) : Int) = _
    rw [Nat.shiftLeft_add_eq_or_of_lt hb n |>.symm]
    simp [Nat.shiftLeft_eq]
  | negSucc n =>
    have : (Int.negSucc n) <<< (8:Nat) = Int.negSucc ((n+1) * 256 - 1) := by
      rw [Int.shiftLeft_eq]; omega
    rw [this]
    show Int.negSucc (Nat.ldiff ((n+1)*256-1) b) = _
    have h : Nat.ldiff ((n+1)*256-1) b = n * 256 + (255 - b) := by
      apply Nat.eq_of_testBit_eq
      intro i
      rw [Nat.testBit_ldiff]
      have e1 : (n+1)*256-1 = n <<< 8 + (2^8 - 1) := by rw [Nat.shiftLeft_eq]; omega
      have e2 : n * 256 + (255 - b) = n <<< 8 + (2^8 - (b+1)) := by rw [Nat.shiftLeft_eq]; omega
      rw [e1, e2, Nat.shiftLeft_add_eq_or_of_lt (by omega), Nat.shiftLeft_add_eq_or_of_lt (by omega), Nat.testBit_or,
        Nat.testBit_or, Nat.testBit_two_pow_sub_succ hb, Nat.testBit_two_pow_sub_one, Nat.testBit_shiftLeft]
      by_cases hi : i < 8
      · simp [hi]
      · have : b.testBit i = false := Nat.testBit_lt_two_pow (lt_of_lt_of_le hb (Nat.pow_le_pow_right (by omega) (by omega)))
        simp [hi, this]
    rw [h]; omega

end Sys2Proof
end

