-- ==== Sys2Proof/Laws/Codec.lean ====
section
/-!
SUPPORT. The two fields of a word: what the encoder puts in, and the index an address field stands for.
-/

namespace Sys2Proof

theorem Address.index_nonneg (a : Address) : 0 ≤ a.index := Int.natCast_nonneg _

theorem Address.index_lt (a : Address) : a.index < 256 := by
  have := a.isLt
  simp only [Address.index]
  omega

@[simp] theorem Address.index_toNat (a : Address) : a.index.toNat = a.toNat := by simp [Address.index]

/-- The address field of a word, as an index, is the word modulo 256 (R72, R75). -/
theorem addressField_index (w : Int) : (addressField w).index = w % 256 := by
  have h : 0 ≤ w % 256 := Int.emod_nonneg _ (by decide)
  simp only [addressField, Address.index, BitVec.toNat_ofInt, Nat.reducePow, Nat.cast_ofNat]
  omega

/-- The field that reads an index back from any word that ends in it. -/
theorem addressField_of_emod {w : Int} {a : Address} (h : w % 256 = a.index) : addressField w = a := by
  have h1 := addressField_index w
  rw [h] at h1
  apply BitVec.eq_of_toNat_eq
  simp only [Address.index] at h1
  exact_mod_cast h1

theorem opcodeField_encode (i : Instr) : opcodeField (encode i) = i.opcode := by
  have h0 := i.address.index_nonneg
  have h1 := i.address.index_lt
  simp only [opcodeField, encode, encodeFields]
  omega

theorem addressField_encode (i : Instr) : addressField (encode i) = i.address := by
  have h0 := i.address.index_nonneg
  have h1 := i.address.index_lt
  apply addressField_of_emod
  simp only [encode, encodeFields]
  omega

/-- The one row of the opcode map that is no single opcode. -/
theorem instrOf_wide {op : Int} (a : Address) (h : op < 0 ∨ 16 ≤ op) : instrOf op a = .unknownWide op a := by
  unfold instrOf
  iterate 15 rw [if_neg (by omega)]
  first | rfl | (rw [if_neg (by omega)])

/-- When the address field is zero: the sentinel's side of opcode 15. -/
theorem addressField_eq_zero (w : Int) : addressField w = 0#8 ↔ w % 256 = 0 := by
  constructor
  · intro h
    have := addressField_index w
    rw [h] at this
    have h0 : Address.index 0#8 = 0 := by decide
    omega
  · intro h
    apply addressField_of_emod
    rw [h]; decide

end Sys2Proof
end

