-- ==== Sys2Proof/Laws/State.lean ====
section
/-!
SUPPORT. One lemma for each field under each update of State, true by unfolding once.
-/

namespace Sys2Proof.Machine

/-! setAc -/

@[simp] theorem State.setAc_ac (s : State) (v : Value) : (s.setAc v).ac = v := rfl
@[simp] theorem State.setAc_mq (s : State) (v : Value) : (s.setAc v).mq = s.mq := rfl
@[simp] theorem State.setAc_pc (s : State) (v : Value) : (s.setAc v).pc = s.pc := rfl
@[simp] theorem State.setAc_ir (s : State) (v : Value) : (s.setAc v).ir = s.ir := rfl
@[simp] theorem State.setAc_mar (s : State) (v : Value) : (s.setAc v).mar = s.mar := rfl
@[simp] theorem State.setAc_mdr (s : State) (v : Value) : (s.setAc v).mdr = s.mdr := rfl
@[simp] theorem State.setAc_mem (s : State) (v : Value) : (s.setAc v).mem = s.mem := rfl
@[simp] theorem State.setAc_rs (s : State) (v : Value) : (s.setAc v).rs = s.rs := rfl
@[simp] theorem State.setAc_cfg (s : State) (v : Value) : (s.setAc v).cfg = s.cfg := rfl
@[simp] theorem State.setAc_events (s : State) (v : Value) : (s.setAc v).events = s.events := rfl
@[simp] theorem State.setAc_inputPending (s : State) (v : Value) : (s.setAc v).inputPending = s.inputPending := rfl
@[simp] theorem State.setAc_replies (s : State) (v : Value) : (s.setAc v).replies = s.replies := rfl
@[simp] theorem State.setAc_calls (s : State) (v : Value) : (s.setAc v).calls = s.calls := rfl
@[simp] theorem State.setAc_loadAnswers (s : State) (v : Value) : (s.setAc v).loadAnswers = s.loadAnswers := rfl
@[simp] theorem State.setAc_draws (s : State) (v : Value) : (s.setAc v).draws = s.draws := rfl

/-! setMq -/

@[simp] theorem State.setMq_ac (s : State) (v : Value) : (s.setMq v).ac = s.ac := rfl
@[simp] theorem State.setMq_mq (s : State) (v : Value) : (s.setMq v).mq = v := rfl
@[simp] theorem State.setMq_pc (s : State) (v : Value) : (s.setMq v).pc = s.pc := rfl
@[simp] theorem State.setMq_ir (s : State) (v : Value) : (s.setMq v).ir = s.ir := rfl
@[simp] theorem State.setMq_mar (s : State) (v : Value) : (s.setMq v).mar = s.mar := rfl
@[simp] theorem State.setMq_mdr (s : State) (v : Value) : (s.setMq v).mdr = s.mdr := rfl
@[simp] theorem State.setMq_mem (s : State) (v : Value) : (s.setMq v).mem = s.mem := rfl
@[simp] theorem State.setMq_rs (s : State) (v : Value) : (s.setMq v).rs = s.rs := rfl
@[simp] theorem State.setMq_cfg (s : State) (v : Value) : (s.setMq v).cfg = s.cfg := rfl
@[simp] theorem State.setMq_events (s : State) (v : Value) : (s.setMq v).events = s.events := rfl
@[simp] theorem State.setMq_inputPending (s : State) (v : Value) : (s.setMq v).inputPending = s.inputPending := rfl
@[simp] theorem State.setMq_replies (s : State) (v : Value) : (s.setMq v).replies = s.replies := rfl
@[simp] theorem State.setMq_calls (s : State) (v : Value) : (s.setMq v).calls = s.calls := rfl
@[simp] theorem State.setMq_loadAnswers (s : State) (v : Value) : (s.setMq v).loadAnswers = s.loadAnswers := rfl
@[simp] theorem State.setMq_draws (s : State) (v : Value) : (s.setMq v).draws = s.draws := rfl

/-! setPc -/

@[simp] theorem State.setPc_ac (s : State) (v : Value) : (s.setPc v).ac = s.ac := rfl
@[simp] theorem State.setPc_mq (s : State) (v : Value) : (s.setPc v).mq = s.mq := rfl
@[simp] theorem State.setPc_pc (s : State) (v : Value) : (s.setPc v).pc = v := rfl
@[simp] theorem State.setPc_ir (s : State) (v : Value) : (s.setPc v).ir = s.ir := rfl
@[simp] theorem State.setPc_mar (s : State) (v : Value) : (s.setPc v).mar = s.mar := rfl
@[simp] theorem State.setPc_mdr (s : State) (v : Value) : (s.setPc v).mdr = s.mdr := rfl
@[simp] theorem State.setPc_mem (s : State) (v : Value) : (s.setPc v).mem = s.mem := rfl
@[simp] theorem State.setPc_rs (s : State) (v : Value) : (s.setPc v).rs = s.rs := rfl
@[simp] theorem State.setPc_cfg (s : State) (v : Value) : (s.setPc v).cfg = s.cfg := rfl
@[simp] theorem State.setPc_events (s : State) (v : Value) : (s.setPc v).events = s.events := rfl
@[simp] theorem State.setPc_inputPending (s : State) (v : Value) : (s.setPc v).inputPending = s.inputPending := rfl
@[simp] theorem State.setPc_replies (s : State) (v : Value) : (s.setPc v).replies = s.replies := rfl
@[simp] theorem State.setPc_calls (s : State) (v : Value) : (s.setPc v).calls = s.calls := rfl
@[simp] theorem State.setPc_loadAnswers (s : State) (v : Value) : (s.setPc v).loadAnswers = s.loadAnswers := rfl
@[simp] theorem State.setPc_draws (s : State) (v : Value) : (s.setPc v).draws = s.draws := rfl

/-! setIr -/

@[simp] theorem State.setIr_ac (s : State) (v : Value) : (s.setIr v).ac = s.ac := rfl
@[simp] theorem State.setIr_mq (s : State) (v : Value) : (s.setIr v).mq = s.mq := rfl
@[simp] theorem State.setIr_pc (s : State) (v : Value) : (s.setIr v).pc = s.pc := rfl
@[simp] theorem State.setIr_ir (s : State) (v : Value) : (s.setIr v).ir = v := rfl
@[simp] theorem State.setIr_mar (s : State) (v : Value) : (s.setIr v).mar = s.mar := rfl
@[simp] theorem State.setIr_mdr (s : State) (v : Value) : (s.setIr v).mdr = s.mdr := rfl
@[simp] theorem State.setIr_mem (s : State) (v : Value) : (s.setIr v).mem = s.mem := rfl
@[simp] theorem State.setIr_rs (s : State) (v : Value) : (s.setIr v).rs = s.rs := rfl
@[simp] theorem State.setIr_cfg (s : State) (v : Value) : (s.setIr v).cfg = s.cfg := rfl
@[simp] theorem State.setIr_events (s : State) (v : Value) : (s.setIr v).events = s.events := rfl
@[simp] theorem State.setIr_inputPending (s : State) (v : Value) : (s.setIr v).inputPending = s.inputPending := rfl
@[simp] theorem State.setIr_replies (s : State) (v : Value) : (s.setIr v).replies = s.replies := rfl
@[simp] theorem State.setIr_calls (s : State) (v : Value) : (s.setIr v).calls = s.calls := rfl
@[simp] theorem State.setIr_loadAnswers (s : State) (v : Value) : (s.setIr v).loadAnswers = s.loadAnswers := rfl
@[simp] theorem State.setIr_draws (s : State) (v : Value) : (s.setIr v).draws = s.draws := rfl

/-! setMar -/

@[simp] theorem State.setMar_ac (s : State) (v : Value) : (s.setMar v).ac = s.ac := rfl
@[simp] theorem State.setMar_mq (s : State) (v : Value) : (s.setMar v).mq = s.mq := rfl
@[simp] theorem State.setMar_pc (s : State) (v : Value) : (s.setMar v).pc = s.pc := rfl
@[simp] theorem State.setMar_ir (s : State) (v : Value) : (s.setMar v).ir = s.ir := rfl
@[simp] theorem State.setMar_mar (s : State) (v : Value) : (s.setMar v).mar = v := rfl
@[simp] theorem State.setMar_mdr (s : State) (v : Value) : (s.setMar v).mdr = s.mdr := rfl
@[simp] theorem State.setMar_mem (s : State) (v : Value) : (s.setMar v).mem = s.mem := rfl
@[simp] theorem State.setMar_rs (s : State) (v : Value) : (s.setMar v).rs = s.rs := rfl
@[simp] theorem State.setMar_cfg (s : State) (v : Value) : (s.setMar v).cfg = s.cfg := rfl
@[simp] theorem State.setMar_events (s : State) (v : Value) : (s.setMar v).events = s.events := rfl
@[simp] theorem State.setMar_inputPending (s : State) (v : Value) : (s.setMar v).inputPending = s.inputPending := rfl
@[simp] theorem State.setMar_replies (s : State) (v : Value) : (s.setMar v).replies = s.replies := rfl
@[simp] theorem State.setMar_calls (s : State) (v : Value) : (s.setMar v).calls = s.calls := rfl
@[simp] theorem State.setMar_loadAnswers (s : State) (v : Value) : (s.setMar v).loadAnswers = s.loadAnswers := rfl
@[simp] theorem State.setMar_draws (s : State) (v : Value) : (s.setMar v).draws = s.draws := rfl

/-! setMdr -/

@[simp] theorem State.setMdr_ac (s : State) (v : Value) : (s.setMdr v).ac = s.ac := rfl
@[simp] theorem State.setMdr_mq (s : State) (v : Value) : (s.setMdr v).mq = s.mq := rfl
@[simp] theorem State.setMdr_pc (s : State) (v : Value) : (s.setMdr v).pc = s.pc := rfl
@[simp] theorem State.setMdr_ir (s : State) (v : Value) : (s.setMdr v).ir = s.ir := rfl
@[simp] theorem State.setMdr_mar (s : State) (v : Value) : (s.setMdr v).mar = s.mar := rfl
@[simp] theorem State.setMdr_mdr (s : State) (v : Value) : (s.setMdr v).mdr = v := rfl
@[simp] theorem State.setMdr_mem (s : State) (v : Value) : (s.setMdr v).mem = s.mem := rfl
@[simp] theorem State.setMdr_rs (s : State) (v : Value) : (s.setMdr v).rs = s.rs := rfl
@[simp] theorem State.setMdr_cfg (s : State) (v : Value) : (s.setMdr v).cfg = s.cfg := rfl
@[simp] theorem State.setMdr_events (s : State) (v : Value) : (s.setMdr v).events = s.events := rfl
@[simp] theorem State.setMdr_inputPending (s : State) (v : Value) : (s.setMdr v).inputPending = s.inputPending := rfl
@[simp] theorem State.setMdr_replies (s : State) (v : Value) : (s.setMdr v).replies = s.replies := rfl
@[simp] theorem State.setMdr_calls (s : State) (v : Value) : (s.setMdr v).calls = s.calls := rfl
@[simp] theorem State.setMdr_loadAnswers (s : State) (v : Value) : (s.setMdr v).loadAnswers = s.loadAnswers := rfl
@[simp] theorem State.setMdr_draws (s : State) (v : Value) : (s.setMdr v).draws = s.draws := rfl

/-! setMem -/

@[simp] theorem State.setMem_ac (s : State) (m : Memory) : (s.setMem m).ac = s.ac := rfl
@[simp] theorem State.setMem_mq (s : State) (m : Memory) : (s.setMem m).mq = s.mq := rfl
@[simp] theorem State.setMem_pc (s : State) (m : Memory) : (s.setMem m).pc = s.pc := rfl
@[simp] theorem State.setMem_ir (s : State) (m : Memory) : (s.setMem m).ir = s.ir := rfl
@[simp] theorem State.setMem_mar (s : State) (m : Memory) : (s.setMem m).mar = s.mar := rfl
@[simp] theorem State.setMem_mdr (s : State) (m : Memory) : (s.setMem m).mdr = s.mdr := rfl
@[simp] theorem State.setMem_mem (s : State) (m : Memory) : (s.setMem m).mem = m := rfl
@[simp] theorem State.setMem_rs (s : State) (m : Memory) : (s.setMem m).rs = s.rs := rfl
@[simp] theorem State.setMem_cfg (s : State) (m : Memory) : (s.setMem m).cfg = s.cfg := rfl
@[simp] theorem State.setMem_events (s : State) (m : Memory) : (s.setMem m).events = s.events := rfl
@[simp] theorem State.setMem_inputPending (s : State) (m : Memory) : (s.setMem m).inputPending = s.inputPending := rfl
@[simp] theorem State.setMem_replies (s : State) (m : Memory) : (s.setMem m).replies = s.replies := rfl
@[simp] theorem State.setMem_calls (s : State) (m : Memory) : (s.setMem m).calls = s.calls := rfl
@[simp] theorem State.setMem_loadAnswers (s : State) (m : Memory) : (s.setMem m).loadAnswers = s.loadAnswers := rfl
@[simp] theorem State.setMem_draws (s : State) (m : Memory) : (s.setMem m).draws = s.draws := rfl

/-! setRs -/

@[simp] theorem State.setRs_ac (s : State) (r : RunState) : (s.setRs r).ac = s.ac := rfl
@[simp] theorem State.setRs_mq (s : State) (r : RunState) : (s.setRs r).mq = s.mq := rfl
@[simp] theorem State.setRs_pc (s : State) (r : RunState) : (s.setRs r).pc = s.pc := rfl
@[simp] theorem State.setRs_ir (s : State) (r : RunState) : (s.setRs r).ir = s.ir := rfl
@[simp] theorem State.setRs_mar (s : State) (r : RunState) : (s.setRs r).mar = s.mar := rfl
@[simp] theorem State.setRs_mdr (s : State) (r : RunState) : (s.setRs r).mdr = s.mdr := rfl
@[simp] theorem State.setRs_mem (s : State) (r : RunState) : (s.setRs r).mem = s.mem := rfl
@[simp] theorem State.setRs_rs (s : State) (r : RunState) : (s.setRs r).rs = r := rfl
@[simp] theorem State.setRs_cfg (s : State) (r : RunState) : (s.setRs r).cfg = s.cfg := rfl
@[simp] theorem State.setRs_events (s : State) (r : RunState) : (s.setRs r).events = s.events := rfl
@[simp] theorem State.setRs_inputPending (s : State) (r : RunState) : (s.setRs r).inputPending = s.inputPending := rfl
@[simp] theorem State.setRs_replies (s : State) (r : RunState) : (s.setRs r).replies = s.replies := rfl
@[simp] theorem State.setRs_calls (s : State) (r : RunState) : (s.setRs r).calls = s.calls := rfl
@[simp] theorem State.setRs_loadAnswers (s : State) (r : RunState) : (s.setRs r).loadAnswers = s.loadAnswers := rfl
@[simp] theorem State.setRs_draws (s : State) (r : RunState) : (s.setRs r).draws = s.draws := rfl

/-! emit -/

@[simp] theorem State.emit_ac (s : State) (e : Event) : (s.emit e).ac = s.ac := rfl
@[simp] theorem State.emit_mq (s : State) (e : Event) : (s.emit e).mq = s.mq := rfl
@[simp] theorem State.emit_pc (s : State) (e : Event) : (s.emit e).pc = s.pc := rfl
@[simp] theorem State.emit_ir (s : State) (e : Event) : (s.emit e).ir = s.ir := rfl
@[simp] theorem State.emit_mar (s : State) (e : Event) : (s.emit e).mar = s.mar := rfl
@[simp] theorem State.emit_mdr (s : State) (e : Event) : (s.emit e).mdr = s.mdr := rfl
@[simp] theorem State.emit_mem (s : State) (e : Event) : (s.emit e).mem = s.mem := rfl
@[simp] theorem State.emit_rs (s : State) (e : Event) : (s.emit e).rs = s.rs := rfl
@[simp] theorem State.emit_cfg (s : State) (e : Event) : (s.emit e).cfg = s.cfg := rfl
@[simp] theorem State.emit_events (s : State) (e : Event) : (s.emit e).events = s.events ++ [e] := rfl
@[simp] theorem State.emit_inputPending (s : State) (e : Event) : (s.emit e).inputPending = s.inputPending := rfl
@[simp] theorem State.emit_replies (s : State) (e : Event) : (s.emit e).replies = s.replies := rfl
@[simp] theorem State.emit_calls (s : State) (e : Event) : (s.emit e).calls = s.calls := rfl
@[simp] theorem State.emit_loadAnswers (s : State) (e : Event) : (s.emit e).loadAnswers = s.loadAnswers := rfl
@[simp] theorem State.emit_draws (s : State) (e : Event) : (s.emit e).draws = s.draws := rfl

/-! setPending -/

@[simp] theorem State.setPending_ac (s : State) (b : Bool) : (s.setPending b).ac = s.ac := rfl
@[simp] theorem State.setPending_mq (s : State) (b : Bool) : (s.setPending b).mq = s.mq := rfl
@[simp] theorem State.setPending_pc (s : State) (b : Bool) : (s.setPending b).pc = s.pc := rfl
@[simp] theorem State.setPending_ir (s : State) (b : Bool) : (s.setPending b).ir = s.ir := rfl
@[simp] theorem State.setPending_mar (s : State) (b : Bool) : (s.setPending b).mar = s.mar := rfl
@[simp] theorem State.setPending_mdr (s : State) (b : Bool) : (s.setPending b).mdr = s.mdr := rfl
@[simp] theorem State.setPending_mem (s : State) (b : Bool) : (s.setPending b).mem = s.mem := rfl
@[simp] theorem State.setPending_rs (s : State) (b : Bool) : (s.setPending b).rs = s.rs := rfl
@[simp] theorem State.setPending_cfg (s : State) (b : Bool) : (s.setPending b).cfg = s.cfg := rfl
@[simp] theorem State.setPending_events (s : State) (b : Bool) : (s.setPending b).events = s.events := rfl
@[simp] theorem State.setPending_inputPending (s : State) (b : Bool) : (s.setPending b).inputPending = b := rfl
@[simp] theorem State.setPending_replies (s : State) (b : Bool) : (s.setPending b).replies = s.replies := rfl
@[simp] theorem State.setPending_calls (s : State) (b : Bool) : (s.setPending b).calls = s.calls := rfl
@[simp] theorem State.setPending_loadAnswers (s : State) (b : Bool) : (s.setPending b).loadAnswers = s.loadAnswers := rfl
@[simp] theorem State.setPending_draws (s : State) (b : Bool) : (s.setPending b).draws = s.draws := rfl

/-! setReplies -/

@[simp] theorem State.setReplies_ac (s : State) (rs : List Reply) : (s.setReplies rs).ac = s.ac := rfl
@[simp] theorem State.setReplies_mq (s : State) (rs : List Reply) : (s.setReplies rs).mq = s.mq := rfl
@[simp] theorem State.setReplies_pc (s : State) (rs : List Reply) : (s.setReplies rs).pc = s.pc := rfl
@[simp] theorem State.setReplies_ir (s : State) (rs : List Reply) : (s.setReplies rs).ir = s.ir := rfl
@[simp] theorem State.setReplies_mar (s : State) (rs : List Reply) : (s.setReplies rs).mar = s.mar := rfl
@[simp] theorem State.setReplies_mdr (s : State) (rs : List Reply) : (s.setReplies rs).mdr = s.mdr := rfl
@[simp] theorem State.setReplies_mem (s : State) (rs : List Reply) : (s.setReplies rs).mem = s.mem := rfl
@[simp] theorem State.setReplies_rs (s : State) (rs : List Reply) : (s.setReplies rs).rs = s.rs := rfl
@[simp] theorem State.setReplies_cfg (s : State) (rs : List Reply) : (s.setReplies rs).cfg = s.cfg := rfl
@[simp] theorem State.setReplies_events (s : State) (rs : List Reply) : (s.setReplies rs).events = s.events := rfl
@[simp] theorem State.setReplies_inputPending (s : State) (rs : List Reply) : (s.setReplies rs).inputPending = s.inputPending := rfl
@[simp] theorem State.setReplies_replies (s : State) (rs : List Reply) : (s.setReplies rs).replies = rs := rfl
@[simp] theorem State.setReplies_calls (s : State) (rs : List Reply) : (s.setReplies rs).calls = s.calls := rfl
@[simp] theorem State.setReplies_loadAnswers (s : State) (rs : List Reply) : (s.setReplies rs).loadAnswers = s.loadAnswers := rfl
@[simp] theorem State.setReplies_draws (s : State) (rs : List Reply) : (s.setReplies rs).draws = s.draws := rfl

/-! setCalls -/

@[simp] theorem State.setCalls_ac (s : State) (cs : List HostCall) : (s.setCalls cs).ac = s.ac := rfl
@[simp] theorem State.setCalls_mq (s : State) (cs : List HostCall) : (s.setCalls cs).mq = s.mq := rfl
@[simp] theorem State.setCalls_pc (s : State) (cs : List HostCall) : (s.setCalls cs).pc = s.pc := rfl
@[simp] theorem State.setCalls_ir (s : State) (cs : List HostCall) : (s.setCalls cs).ir = s.ir := rfl
@[simp] theorem State.setCalls_mar (s : State) (cs : List HostCall) : (s.setCalls cs).mar = s.mar := rfl
@[simp] theorem State.setCalls_mdr (s : State) (cs : List HostCall) : (s.setCalls cs).mdr = s.mdr := rfl
@[simp] theorem State.setCalls_mem (s : State) (cs : List HostCall) : (s.setCalls cs).mem = s.mem := rfl
@[simp] theorem State.setCalls_rs (s : State) (cs : List HostCall) : (s.setCalls cs).rs = s.rs := rfl
@[simp] theorem State.setCalls_cfg (s : State) (cs : List HostCall) : (s.setCalls cs).cfg = s.cfg := rfl
@[simp] theorem State.setCalls_events (s : State) (cs : List HostCall) : (s.setCalls cs).events = s.events := rfl
@[simp] theorem State.setCalls_inputPending (s : State) (cs : List HostCall) : (s.setCalls cs).inputPending = s.inputPending := rfl
@[simp] theorem State.setCalls_replies (s : State) (cs : List HostCall) : (s.setCalls cs).replies = s.replies := rfl
@[simp] theorem State.setCalls_calls (s : State) (cs : List HostCall) : (s.setCalls cs).calls = cs := rfl
@[simp] theorem State.setCalls_loadAnswers (s : State) (cs : List HostCall) : (s.setCalls cs).loadAnswers = s.loadAnswers := rfl
@[simp] theorem State.setCalls_draws (s : State) (cs : List HostCall) : (s.setCalls cs).draws = s.draws := rfl

/-! answerLoad -/

@[simp] theorem State.answerLoad_ac (s : State) (a : LoadAnswer) : (s.answerLoad a).ac = s.ac := rfl
@[simp] theorem State.answerLoad_mq (s : State) (a : LoadAnswer) : (s.answerLoad a).mq = s.mq := rfl
@[simp] theorem State.answerLoad_pc (s : State) (a : LoadAnswer) : (s.answerLoad a).pc = s.pc := rfl
@[simp] theorem State.answerLoad_ir (s : State) (a : LoadAnswer) : (s.answerLoad a).ir = s.ir := rfl
@[simp] theorem State.answerLoad_mar (s : State) (a : LoadAnswer) : (s.answerLoad a).mar = s.mar := rfl
@[simp] theorem State.answerLoad_mdr (s : State) (a : LoadAnswer) : (s.answerLoad a).mdr = s.mdr := rfl
@[simp] theorem State.answerLoad_mem (s : State) (a : LoadAnswer) : (s.answerLoad a).mem = s.mem := rfl
@[simp] theorem State.answerLoad_rs (s : State) (a : LoadAnswer) : (s.answerLoad a).rs = s.rs := rfl
@[simp] theorem State.answerLoad_cfg (s : State) (a : LoadAnswer) : (s.answerLoad a).cfg = s.cfg := rfl
@[simp] theorem State.answerLoad_events (s : State) (a : LoadAnswer) : (s.answerLoad a).events = s.events := rfl
@[simp] theorem State.answerLoad_inputPending (s : State) (a : LoadAnswer) : (s.answerLoad a).inputPending = s.inputPending := rfl
@[simp] theorem State.answerLoad_replies (s : State) (a : LoadAnswer) : (s.answerLoad a).replies = s.replies := rfl
@[simp] theorem State.answerLoad_calls (s : State) (a : LoadAnswer) : (s.answerLoad a).calls = s.calls := rfl
@[simp] theorem State.answerLoad_loadAnswers (s : State) (a : LoadAnswer) : (s.answerLoad a).loadAnswers = s.loadAnswers ++ [a] := rfl
@[simp] theorem State.answerLoad_draws (s : State) (a : LoadAnswer) : (s.answerLoad a).draws = s.draws := rfl

/-! bumpDraws -/

@[simp] theorem State.bumpDraws_ac (s : State) : (s.bumpDraws).ac = s.ac := rfl
@[simp] theorem State.bumpDraws_mq (s : State) : (s.bumpDraws).mq = s.mq := rfl
@[simp] theorem State.bumpDraws_pc (s : State) : (s.bumpDraws).pc = s.pc := rfl
@[simp] theorem State.bumpDraws_ir (s : State) : (s.bumpDraws).ir = s.ir := rfl
@[simp] theorem State.bumpDraws_mar (s : State) : (s.bumpDraws).mar = s.mar := rfl
@[simp] theorem State.bumpDraws_mdr (s : State) : (s.bumpDraws).mdr = s.mdr := rfl
@[simp] theorem State.bumpDraws_mem (s : State) : (s.bumpDraws).mem = s.mem := rfl
@[simp] theorem State.bumpDraws_rs (s : State) : (s.bumpDraws).rs = s.rs := rfl
@[simp] theorem State.bumpDraws_cfg (s : State) : (s.bumpDraws).cfg = s.cfg := rfl
@[simp] theorem State.bumpDraws_events (s : State) : (s.bumpDraws).events = s.events := rfl
@[simp] theorem State.bumpDraws_inputPending (s : State) : (s.bumpDraws).inputPending = s.inputPending := rfl
@[simp] theorem State.bumpDraws_replies (s : State) : (s.bumpDraws).replies = s.replies := rfl
@[simp] theorem State.bumpDraws_calls (s : State) : (s.bumpDraws).calls = s.calls := rfl
@[simp] theorem State.bumpDraws_loadAnswers (s : State) : (s.bumpDraws).loadAnswers = s.loadAnswers := rfl
@[simp] theorem State.bumpDraws_draws (s : State) : (s.bumpDraws).draws = s.draws + 1 := rfl

/-! The trace entry of each event -/

@[simp] theorem Event.entry_trace (e : TraceEntry) : (Event.trace e).entry = some e := rfl
@[simp] theorem Event.entry_inputRequest : Event.inputRequest.entry = none := rfl
@[simp] theorem Event.entry_inputReply (r : Reply) : (Event.inputReply r).entry = none := rfl
@[simp] theorem Event.entry_diag (f : Fault) (o : Offender) : (Event.diag f o).entry = none := rfl
@[simp] theorem Event.entry_done : Event.done.entry = none := rfl
@[simp] theorem Event.entry_debug (v : Value) : (Event.debug v).entry = none := rfl

end Sys2Proof.Machine
end

