-- ==== Sys2Proof/Laws/Ops.lean ====
section
/-!
SUPPORT. The shared operations: what each leaves in each field, and for those that can end in more than one way one lemma that lists
the ways.
-/

namespace Sys2Proof.Machine

/-! traceEntry -/

@[simp] theorem traceEntry_ac (e : TraceEntry) (s : State) :
    (traceEntry e s).ac = s.ac := by
  unfold traceEntry; split <;> rfl
@[simp] theorem traceEntry_mq (e : TraceEntry) (s : State) :
    (traceEntry e s).mq = s.mq := by
  unfold traceEntry; split <;> rfl
@[simp] theorem traceEntry_pc (e : TraceEntry) (s : State) :
    (traceEntry e s).pc = s.pc := by
  unfold traceEntry; split <;> rfl
@[simp] theorem traceEntry_ir (e : TraceEntry) (s : State) :
    (traceEntry e s).ir = s.ir := by
  unfold traceEntry; split <;> rfl
@[simp] theorem traceEntry_mar (e : TraceEntry) (s : State) :
    (traceEntry e s).mar = s.mar := by
  unfold traceEntry; split <;> rfl
@[simp] theorem traceEntry_mdr (e : TraceEntry) (s : State) :
    (traceEntry e s).mdr = s.mdr := by
  unfold traceEntry; split <;> rfl
@[simp] theorem traceEntry_mem (e : TraceEntry) (s : State) :
    (traceEntry e s).mem = s.mem := by
  unfold traceEntry; split <;> rfl
@[simp] theorem traceEntry_rs (e : TraceEntry) (s : State) :
    (traceEntry e s).rs = s.rs := by
  unfold traceEntry; split <;> rfl
@[simp] theorem traceEntry_cfg (e : TraceEntry) (s : State) :
    (traceEntry e s).cfg = s.cfg := by
  unfold traceEntry; split <;> rfl
@[simp] theorem traceEntry_events (e : TraceEntry) (s : State) :
    (traceEntry e s).events = s.events ++ tracesShown s.cfg [e] := by
  unfold traceEntry tracesShown; split <;> simp
@[simp] theorem traceEntry_inputPending (e : TraceEntry) (s : State) :
    (traceEntry e s).inputPending = s.inputPending := by
  unfold traceEntry; split <;> rfl
@[simp] theorem traceEntry_replies (e : TraceEntry) (s : State) :
    (traceEntry e s).replies = s.replies := by
  unfold traceEntry; split <;> rfl
@[simp] theorem traceEntry_calls (e : TraceEntry) (s : State) :
    (traceEntry e s).calls = s.calls := by
  unfold traceEntry; split <;> rfl
@[simp] theorem traceEntry_loadAnswers (e : TraceEntry) (s : State) :
    (traceEntry e s).loadAnswers = s.loadAnswers := by
  unfold traceEntry; split <;> rfl
@[simp] theorem traceEntry_draws (e : TraceEntry) (s : State) :
    (traceEntry e s).draws = s.draws := by
  unfold traceEntry; split <;> rfl

/-! debugHook -/

@[simp] theorem debugHook_ac (s : State) : (debugHook s).ac = s.ac := by
  unfold debugHook; split <;> rfl
@[simp] theorem debugHook_mq (s : State) : (debugHook s).mq = s.mq := by
  unfold debugHook; split <;> rfl
@[simp] theorem debugHook_pc (s : State) : (debugHook s).pc = s.pc := by
  unfold debugHook; split <;> rfl
@[simp] theorem debugHook_ir (s : State) : (debugHook s).ir = s.ir := by
  unfold debugHook; split <;> rfl
@[simp] theorem debugHook_mar (s : State) : (debugHook s).mar = s.mar := by
  unfold debugHook; split <;> rfl
@[simp] theorem debugHook_mdr (s : State) : (debugHook s).mdr = s.mdr := by
  unfold debugHook; split <;> rfl
@[simp] theorem debugHook_mem (s : State) : (debugHook s).mem = s.mem := by
  unfold debugHook; split <;> rfl
@[simp] theorem debugHook_rs (s : State) : (debugHook s).rs = s.rs := by
  unfold debugHook; split <;> rfl
@[simp] theorem debugHook_cfg (s : State) : (debugHook s).cfg = s.cfg := by
  unfold debugHook; split <;> rfl
@[simp] theorem debugHook_events (s : State) :
    (debugHook s).events = s.events ++ debugShown s.cfg s.pc := by
  unfold debugHook debugShown; split <;> simp
@[simp] theorem debugHook_inputPending (s : State) :
    (debugHook s).inputPending = s.inputPending := by
  unfold debugHook; split <;> rfl
@[simp] theorem debugHook_replies (s : State) :
    (debugHook s).replies = s.replies := by
  unfold debugHook; split <;> rfl
@[simp] theorem debugHook_calls (s : State) : (debugHook s).calls = s.calls := by
  unfold debugHook; split <;> rfl
@[simp] theorem debugHook_loadAnswers (s : State) :
    (debugHook s).loadAnswers = s.loadAnswers := by
  unfold debugHook; split <;> rfl
@[simp] theorem debugHook_draws (s : State) : (debugHook s).draws = s.draws := by
  unfold debugHook; split <;> rfl

/-! advance -/

@[simp] theorem advance_ac (s : State) : (advance s).ac = s.ac := by simp [advance]
@[simp] theorem advance_mq (s : State) : (advance s).mq = s.mq := by simp [advance]
@[simp] theorem advance_pc (s : State) : (advance s).pc = nextPc s.pc := by simp [advance]
@[simp] theorem advance_ir (s : State) : (advance s).ir = s.ir := by simp [advance]
@[simp] theorem advance_mar (s : State) : (advance s).mar = s.mar := by simp [advance]
@[simp] theorem advance_mdr (s : State) : (advance s).mdr = s.mdr := by simp [advance]
@[simp] theorem advance_mem (s : State) : (advance s).mem = s.mem := by simp [advance]
@[simp] theorem advance_rs (s : State) : (advance s).rs = s.rs := by simp [advance]
@[simp] theorem advance_cfg (s : State) : (advance s).cfg = s.cfg := by simp [advance]
@[simp] theorem advance_events (s : State) :
    (advance s).events = s.events ++ debugShown s.cfg (nextPc s.pc) := by simp [advance]
@[simp] theorem advance_inputPending (s : State) : (advance s).inputPending = s.inputPending := by simp [advance]
@[simp] theorem advance_replies (s : State) : (advance s).replies = s.replies := by simp [advance]
@[simp] theorem advance_calls (s : State) : (advance s).calls = s.calls := by simp [advance]
@[simp] theorem advance_loadAnswers (s : State) : (advance s).loadAnswers = s.loadAnswers := by simp [advance]
@[simp] theorem advance_draws (s : State) : (advance s).draws = s.draws := by simp [advance]

/-! raiseFault -/

@[simp] theorem raiseFault_ac (f : Fault) (o : Offender) (s : State) : (raiseFault f o s).ac = s.ac := rfl
@[simp] theorem raiseFault_mq (f : Fault) (o : Offender) (s : State) : (raiseFault f o s).mq = s.mq := rfl
@[simp] theorem raiseFault_pc (f : Fault) (o : Offender) (s : State) : (raiseFault f o s).pc = s.pc := rfl
@[simp] theorem raiseFault_ir (f : Fault) (o : Offender) (s : State) : (raiseFault f o s).ir = s.ir := rfl
@[simp] theorem raiseFault_mar (f : Fault) (o : Offender) (s : State) : (raiseFault f o s).mar = s.mar := rfl
@[simp] theorem raiseFault_mdr (f : Fault) (o : Offender) (s : State) : (raiseFault f o s).mdr = s.mdr := rfl
@[simp] theorem raiseFault_mem (f : Fault) (o : Offender) (s : State) : (raiseFault f o s).mem = s.mem := rfl
@[simp] theorem raiseFault_rs (f : Fault) (o : Offender) (s : State) : (raiseFault f o s).rs = .faulted := rfl
@[simp] theorem raiseFault_cfg (f : Fault) (o : Offender) (s : State) : (raiseFault f o s).cfg = s.cfg := rfl
@[simp] theorem raiseFault_events (f : Fault) (o : Offender) (s : State) :
    (raiseFault f o s).events = s.events ++ [.diag f o] := rfl
@[simp] theorem raiseFault_inputPending (f : Fault) (o : Offender) (s : State) :
    (raiseFault f o s).inputPending = s.inputPending := rfl
@[simp] theorem raiseFault_replies (f : Fault) (o : Offender) (s : State) : (raiseFault f o s).replies = s.replies := rfl
@[simp] theorem raiseFault_calls (f : Fault) (o : Offender) (s : State) : (raiseFault f o s).calls = s.calls := rfl
@[simp] theorem raiseFault_loadAnswers (f : Fault) (o : Offender) (s : State) :
    (raiseFault f o s).loadAnswers = s.loadAnswers := rfl
@[simp] theorem raiseFault_draws (f : Fault) (o : Offender) (s : State) : (raiseFault f o s).draws = s.draws := rfl

/-! haltRun -/

@[simp] theorem haltRun_ac (s : State) : (haltRun s).ac = s.ac := rfl
@[simp] theorem haltRun_mq (s : State) : (haltRun s).mq = s.mq := rfl
@[simp] theorem haltRun_pc (s : State) : (haltRun s).pc = s.pc := rfl
@[simp] theorem haltRun_ir (s : State) : (haltRun s).ir = s.ir := rfl
@[simp] theorem haltRun_mar (s : State) : (haltRun s).mar = s.mar := rfl
@[simp] theorem haltRun_mdr (s : State) : (haltRun s).mdr = s.mdr := rfl
@[simp] theorem haltRun_mem (s : State) : (haltRun s).mem = s.mem := rfl
@[simp] theorem haltRun_rs (s : State) : (haltRun s).rs = .halted := rfl
@[simp] theorem haltRun_cfg (s : State) : (haltRun s).cfg = s.cfg := rfl
@[simp] theorem haltRun_events (s : State) : (haltRun s).events = s.events ++ [.done] := rfl
@[simp] theorem haltRun_inputPending (s : State) : (haltRun s).inputPending = s.inputPending := rfl
@[simp] theorem haltRun_replies (s : State) : (haltRun s).replies = s.replies := rfl
@[simp] theorem haltRun_calls (s : State) : (haltRun s).calls = s.calls := rfl
@[simp] theorem haltRun_loadAnswers (s : State) : (haltRun s).loadAnswers = s.loadAnswers := rfl
@[simp] theorem haltRun_draws (s : State) : (haltRun s).draws = s.draws := rfl

/-! afterRead -/

@[simp] theorem afterRead_ac (z : Int) (s : State) : (afterRead z s).ac = s.ac := by unfold afterRead; split <;> rfl
@[simp] theorem afterRead_mq (z : Int) (s : State) : (afterRead z s).mq = s.mq := by unfold afterRead; split <;> rfl
@[simp] theorem afterRead_pc (z : Int) (s : State) : (afterRead z s).pc = s.pc := by unfold afterRead; split <;> rfl
@[simp] theorem afterRead_ir (z : Int) (s : State) : (afterRead z s).ir = s.ir := by unfold afterRead; split <;> rfl
@[simp] theorem afterRead_mar (z : Int) (s : State) : (afterRead z s).mar = s.mar := by unfold afterRead; split <;> rfl
@[simp] theorem afterRead_mdr (z : Int) (s : State) : (afterRead z s).mdr = s.mdr := by unfold afterRead; split <;> rfl
@[simp] theorem afterRead_mem (z : Int) (s : State) : (afterRead z s).mem = s.mem := by unfold afterRead; split <;> rfl
@[simp] theorem afterRead_rs (z : Int) (s : State) : (afterRead z s).rs = s.rs := by unfold afterRead; split <;> rfl
@[simp] theorem afterRead_cfg (z : Int) (s : State) : (afterRead z s).cfg = s.cfg := by unfold afterRead; split <;> rfl
@[simp] theorem afterRead_events (z : Int) (s : State) :
    (afterRead z s).events = s.events := by unfold afterRead; split <;> rfl
@[simp] theorem afterRead_inputPending (z : Int) (s : State) :
    (afterRead z s).inputPending = s.inputPending := by unfold afterRead; split <;> rfl
@[simp] theorem afterRead_replies (z : Int) (s : State) :
    (afterRead z s).replies = s.replies := by unfold afterRead; split <;> rfl
@[simp] theorem afterRead_calls (z : Int) (s : State) : (afterRead z s).calls = s.calls := by unfold afterRead; split <;> rfl
@[simp] theorem afterRead_loadAnswers (z : Int) (s : State) :
    (afterRead z s).loadAnswers = s.loadAnswers := by unfold afterRead; split <;> rfl

theorem afterRead_draws (z : Int) (s : State) : (afterRead z s).draws = if inStore s.cfg z = true then s.draws else s.draws + 1 := by
  unfold afterRead; split <;> rfl

@[simp] theorem readCell_setMar (z : Int) (v : Value) (s : State) : readCell z (s.setMar v) = readCell z s := rfl

@[simp] theorem afterRead_setMar_draws (z : Int) (v : Value) (s : State) :
    (afterRead z (s.setMar v)).draws = (afterRead z s).draws := by
  rw [afterRead_draws, afterRead_draws]; rfl

theorem inStore_eq_true {c : Configuration} {z : Int} : inStore c z = true ↔ 0 ≤ z ∧ z < (c.memorySize : Int) := by
  simp [inStore]

theorem inStore_eq_false {c : Configuration} {z : Int} : inStore c z = false ↔ z < 0 ∨ (c.memorySize : Int) ≤ z := by
  simp only [inStore, Bool.and_eq_false_iff, decide_eq_false_iff_not]; omega

theorem readCell_inside {z : Int} {s : State} (h : inStore s.cfg z = true) : readCell z s = Memory.read s.mem z.toNat := if_pos h

theorem readCell_outside {z : Int} {s : State} (h : inStore s.cfg z = false) : readCell z s = Config.oorRead s.draws z := by
  simp [readCell, h]

/-! fetch -/

@[simp] theorem fetch_ac (p : Int) (s : State) : (fetch p s).ac = s.ac := by simp [fetch]
@[simp] theorem fetch_mq (p : Int) (s : State) : (fetch p s).mq = s.mq := by simp [fetch]
@[simp] theorem fetch_pc (p : Int) (s : State) : (fetch p s).pc = s.pc := by simp [fetch]
@[simp] theorem fetch_ir (p : Int) (s : State) : (fetch p s).ir = readCell p s := by simp [fetch]
@[simp] theorem fetch_mar (p : Int) (s : State) : (fetch p s).mar = .int p := by simp [fetch]
@[simp] theorem fetch_mdr (p : Int) (s : State) : (fetch p s).mdr = s.mdr := by simp [fetch]
@[simp] theorem fetch_mem (p : Int) (s : State) : (fetch p s).mem = s.mem := by simp [fetch]
@[simp] theorem fetch_rs (p : Int) (s : State) : (fetch p s).rs = s.rs := by simp [fetch]
@[simp] theorem fetch_cfg (p : Int) (s : State) : (fetch p s).cfg = s.cfg := by simp [fetch]
@[simp] theorem fetch_events (p : Int) (s : State) : (fetch p s).events = s.events := by simp [fetch]
@[simp] theorem fetch_inputPending (p : Int) (s : State) : (fetch p s).inputPending = s.inputPending := by simp [fetch]
@[simp] theorem fetch_replies (p : Int) (s : State) : (fetch p s).replies = s.replies := by simp [fetch]
@[simp] theorem fetch_calls (p : Int) (s : State) : (fetch p s).calls = s.calls := by simp [fetch]
@[simp] theorem fetch_loadAnswers (p : Int) (s : State) : (fetch p s).loadAnswers = s.loadAnswers := by simp [fetch]
@[simp] theorem fetch_draws (p : Int) (s : State) : (fetch p s).draws = (afterRead p s).draws := by simp [fetch]

/-! readToMdr -/

@[simp] theorem readToMdr_ac (z : Int) (s : State) : (readToMdr z s).ac = s.ac := by simp [readToMdr]
@[simp] theorem readToMdr_mq (z : Int) (s : State) : (readToMdr z s).mq = s.mq := by simp [readToMdr]
@[simp] theorem readToMdr_pc (z : Int) (s : State) : (readToMdr z s).pc = s.pc := by simp [readToMdr]
@[simp] theorem readToMdr_ir (z : Int) (s : State) : (readToMdr z s).ir = s.ir := by simp [readToMdr]
@[simp] theorem readToMdr_mar (z : Int) (s : State) : (readToMdr z s).mar = s.mar := by simp [readToMdr]
@[simp] theorem readToMdr_mdr (z : Int) (s : State) : (readToMdr z s).mdr = readCell z s := by simp [readToMdr]
@[simp] theorem readToMdr_mem (z : Int) (s : State) : (readToMdr z s).mem = s.mem := by simp [readToMdr]
@[simp] theorem readToMdr_rs (z : Int) (s : State) : (readToMdr z s).rs = s.rs := by simp [readToMdr]
@[simp] theorem readToMdr_cfg (z : Int) (s : State) : (readToMdr z s).cfg = s.cfg := by simp [readToMdr]
@[simp] theorem readToMdr_events (z : Int) (s : State) : (readToMdr z s).events = s.events := by simp [readToMdr]
@[simp] theorem readToMdr_inputPending (z : Int) (s : State) :
    (readToMdr z s).inputPending = s.inputPending := by simp [readToMdr]
@[simp] theorem readToMdr_replies (z : Int) (s : State) : (readToMdr z s).replies = s.replies := by simp [readToMdr]
@[simp] theorem readToMdr_calls (z : Int) (s : State) : (readToMdr z s).calls = s.calls := by simp [readToMdr]
@[simp] theorem readToMdr_loadAnswers (z : Int) (s : State) :
    (readToMdr z s).loadAnswers = s.loadAnswers := by simp [readToMdr]
@[simp] theorem readToMdr_draws (z : Int) (s : State) : (readToMdr z s).draws = (afterRead z s).draws := by simp [readToMdr]

/-! traceInputEntry -/

@[simp] theorem traceInputEntry_ac (s : State) : (traceInputEntry s).ac = s.ac := by
  unfold traceInputEntry; split <;> simp
@[simp] theorem traceInputEntry_mq (s : State) : (traceInputEntry s).mq = s.mq := by
  unfold traceInputEntry; split <;> simp
@[simp] theorem traceInputEntry_pc (s : State) : (traceInputEntry s).pc = s.pc := by
  unfold traceInputEntry; split <;> simp
@[simp] theorem traceInputEntry_ir (s : State) : (traceInputEntry s).ir = s.ir := by
  unfold traceInputEntry; split <;> simp
@[simp] theorem traceInputEntry_mar (s : State) :
    (traceInputEntry s).mar = s.mar := by
  unfold traceInputEntry; split <;> simp
@[simp] theorem traceInputEntry_mdr (s : State) :
    (traceInputEntry s).mdr = s.mdr := by
  unfold traceInputEntry; split <;> simp
@[simp] theorem traceInputEntry_mem (s : State) :
    (traceInputEntry s).mem = s.mem := by
  unfold traceInputEntry; split <;> simp
@[simp] theorem traceInputEntry_rs (s : State) : (traceInputEntry s).rs = s.rs := by
  unfold traceInputEntry; split <;> simp
@[simp] theorem traceInputEntry_cfg (s : State) :
    (traceInputEntry s).cfg = s.cfg := by
  unfold traceInputEntry; split <;> simp
@[simp] theorem traceInputEntry_events (s : State) :
    (traceInputEntry s).events = s.events ++ if Config.traceInput = true then tracesShown s.cfg [.input s.ac] else [] := by
  unfold traceInputEntry; split <;> simp
@[simp] theorem traceInputEntry_inputPending (s : State) :
    (traceInputEntry s).inputPending = s.inputPending := by
  unfold traceInputEntry; split <;> simp
@[simp] theorem traceInputEntry_replies (s : State) :
    (traceInputEntry s).replies = s.replies := by
  unfold traceInputEntry; split <;> simp
@[simp] theorem traceInputEntry_calls (s : State) :
    (traceInputEntry s).calls = s.calls := by
  unfold traceInputEntry; split <;> simp
@[simp] theorem traceInputEntry_loadAnswers (s : State) :
    (traceInputEntry s).loadAnswers = s.loadAnswers := by
  unfold traceInputEntry; split <;> simp
@[simp] theorem traceInputEntry_draws (s : State) :
    (traceInputEntry s).draws = s.draws := by
  unfold traceInputEntry; split <;> simp

/-! drawInputFaultAc -/

@[simp] theorem drawInputFaultAc_ac (s : State) :
    (drawInputFaultAc s).ac = if Config.inputFaultKeepsAc s.draws = true then s.ac else .invalid := rfl
@[simp] theorem drawInputFaultAc_mq (s : State) : (drawInputFaultAc s).mq = s.mq := rfl
@[simp] theorem drawInputFaultAc_pc (s : State) : (drawInputFaultAc s).pc = s.pc := rfl
@[simp] theorem drawInputFaultAc_ir (s : State) : (drawInputFaultAc s).ir = s.ir := rfl
@[simp] theorem drawInputFaultAc_mar (s : State) : (drawInputFaultAc s).mar = s.mar := rfl
@[simp] theorem drawInputFaultAc_mdr (s : State) : (drawInputFaultAc s).mdr = s.mdr := rfl
@[simp] theorem drawInputFaultAc_mem (s : State) : (drawInputFaultAc s).mem = s.mem := rfl
@[simp] theorem drawInputFaultAc_rs (s : State) : (drawInputFaultAc s).rs = s.rs := rfl
@[simp] theorem drawInputFaultAc_cfg (s : State) : (drawInputFaultAc s).cfg = s.cfg := rfl
@[simp] theorem drawInputFaultAc_events (s : State) : (drawInputFaultAc s).events = s.events := rfl
@[simp] theorem drawInputFaultAc_inputPending (s : State) : (drawInputFaultAc s).inputPending = s.inputPending := rfl
@[simp] theorem drawInputFaultAc_replies (s : State) : (drawInputFaultAc s).replies = s.replies := rfl
@[simp] theorem drawInputFaultAc_calls (s : State) : (drawInputFaultAc s).calls = s.calls := rfl
@[simp] theorem drawInputFaultAc_loadAnswers (s : State) : (drawInputFaultAc s).loadAnswers = s.loadAnswers := rfl
@[simp] theorem drawInputFaultAc_draws (s : State) : (drawInputFaultAc s).draws = s.draws + 1 := rfl

/-! The addressing-fault check. -/

@[simp] theorem check_invalid (c : Configuration) : check c .invalid = .fault .notInteger := rfl

/-- A pass hands back the integer that was checked, and the access it guards does not fault (R53). -/
theorem check_eq_pass {c : Configuration} {v : Value} {z : Int} : check c v = .pass z ↔ v = .int z ∧ Unfaulted c z := by
  cases v with
  | invalid => simp
  | int y =>
    unfold check Unfaulted
    cases hin : inStore c y <;> cases hel : c.errorLogging <;> simp [hin] <;> rintro rfl <;> simp [hin]

theorem check_pass_of {c : Configuration} {z : Int} (h : Unfaulted c z) : check c (.int z) = .pass z :=
  check_eq_pass.2 ⟨rfl, h⟩

/-- The two ways the check fails (R53). -/
theorem check_eq_fault {c : Configuration} {v : Value} {k : CheckKind} :
    check c v = .fault k ↔
      (v = .invalid ∧ k = .notInteger) ∨ (∃ z, v = .int z ∧ c.errorLogging = true ∧ inStore c z = false ∧ k = .outOfRange) := by
  cases v with
  | invalid => simp [@eq_comm _ _ k]
  | int y =>
    unfold check
    cases hin : inStore c y <;> cases hel : c.errorLogging <;> simp [hin, @eq_comm _ _ k]

/-- The two ways of an operand access: AF_OPERAND, or `k` at the operand's index with `MAR` written (R54, R122). -/
theorem withOperand_cases {a : Address} {s : State} {k : Int → State → Host.Outcome State Fault Refusal} {r}
    (h : withOperand a s k = r) :
    (∃ kind, check s.cfg (.int a.index) = .fault kind ∧ r = .next (raiseFault (.afOperand kind) (.value (.int a.index)) s)) ∨
      (Unfaulted s.cfg a.index ∧ r = k a.index (s.setMar (.int a.index))) := by
  unfold withOperand at h
  split at h
  · exact .inl ⟨_, ‹_›, h.symm⟩
  · rename_i z hz
    obtain ⟨hv, hu⟩ := check_eq_pass.1 hz
    cases hv
    exact .inr ⟨hu, h.symm⟩

theorem withOperand_pass {a : Address} {s : State} (k : Int → State → Host.Outcome State Fault Refusal)
    (h : Unfaulted s.cfg a.index) : withOperand a s k = k a.index (s.setMar (.int a.index)) := by
  simp [withOperand, check_pass_of h]

/-- The two ways of a Word Store write (R59). -/
theorem memWrite_cases {z : Int} {v : Value} {s : State} {k : State → Host.Outcome State Fault Refusal} {r}
    (h : memWrite z v s k = r) :
    (inStore s.cfg z = true ∧ r = k (s.setMem (Memory.write s.mem z.toNat v))) ∨ (inStore s.cfg z = false ∧ r = .refused (.outOfRangeWrite z)) := by
  unfold memWrite at h
  split at h
  · exact .inl ⟨‹_›, h.symm⟩
  · rename_i hin
    exact .inr ⟨by simpa using hin, h.symm⟩

/-! The input channel. -/

/-- INPUT's wait: without a reply nothing changes, with one the reply is taken (R38, R39). -/
theorem awaitReply_cases {s t : State} (h : awaitReply s = .next t) :
    (s.replies = [] ∧ t = s) ∨
      (∃ r rest, s.replies = r :: rest ∧ t = acceptReply r ((s.setReplies rest).setPending false)) := by
  unfold awaitReply at h
  split at h
  · exact .inl ⟨‹_›, by simpa using h.symm⟩
  · exact .inr ⟨_, _, ‹_›, by simpa using h.symm⟩

/-- The three ends of INPUT once it has its reply (R110). -/
theorem acceptReply_cases (r : Reply) (s : State) :
    (∃ z, r = .int z ∧ acceptReply r s = advance (traceInputEntry ((s.emit (.inputReply r)).setAc (.int z)))) ∨
      (r = .unparseable ∧ s.cfg.errorLogging = true ∧
        acceptReply r s = raiseFault .inputParse (.reply .unparseable) (drawInputFaultAc (s.emit (.inputReply r)))) ∨
      (r = .unparseable ∧ s.cfg.errorLogging = false ∧
        acceptReply r s = advance (traceInputEntry ((s.emit (.inputReply r)).setAc .invalid))) := by
  cases r with
  | int z => exact .inl ⟨z, rfl, rfl⟩
  | unparseable =>
    cases h : s.cfg.errorLogging
    · exact .inr (.inr ⟨rfl, rfl, by simp [acceptReply, h]⟩)
    · exact .inr (.inl ⟨rfl, rfl, by simp [acceptReply, h]⟩)

/-! The host's calls. -/

/-- The three ends of the Program Loader (R137). -/
theorem loadProgram_cases (arg : LoadArg) (s : State) :
    (arg = .notSequence ∧ loadProgram arg s = .fault .loaderType) ∨
      (∃ p, arg = .sequence p ∧ (amendProgram p).length ≤ s.cfg.memorySize ∧
        loadProgram arg s = .next (s.setMem (Memory.writeAll s.mem 0 (amendProgram p)))) ∨
      (∃ p, arg = .sequence p ∧ s.cfg.memorySize < (amendProgram p).length ∧ loadProgram arg s = .refused .loadOverflow) := by
  cases arg with
  | notSequence => exact .inl ⟨rfl, rfl⟩
  | sequence p =>
    by_cases h : (amendProgram p).length ≤ s.cfg.memorySize
    · exact .inr (.inl ⟨p, rfl, h, by simp [loadProgram, h]⟩)
    · exact .inr (.inr ⟨p, rfl, by omega, by simp [loadProgram, h]⟩)

/-- What a host's call can leave: an answered load, a register, a cell, or a run begun (R40). -/
theorem performCall_cases {c : HostCall} {s t : State} (h : performCall c s = .next t) :
    (c = .loadProgram .notSequence ∧ t = s.answerLoad (.failed .loaderType)) ∨
      (∃ p, c = .loadProgram (.sequence p) ∧ (amendProgram p).length ≤ s.cfg.memorySize ∧
        t = (s.setMem (Memory.writeAll s.mem 0 (amendProgram p))).answerLoad .ok) ∨
      (∃ r v, c = .writeReg r v ∧ t = hostWriteReg r v s) ∨
      (∃ i v, c = .writeCell i v ∧ inStore s.cfg i = true ∧ t = s.setMem (Memory.write s.mem i.toNat v)) ∨
      (c = .run ∧ s.rs ≠ .faulted ∧ t = s.setRs .running) := by
  cases c with
  | loadProgram arg =>
    rcases loadProgram_cases arg s with ⟨rfl, hl⟩ | ⟨p, rfl, hlen, hl⟩ | ⟨p, rfl, hlen, hl⟩ <;>
      simp only [performCall, loadCall, hl, Host.Outcome.next.injEq, reduceCtorEq] at h
    · exact .inl ⟨rfl, h.symm⟩
    · exact .inr (.inl ⟨p, rfl, hlen, h.symm⟩)
  | writeReg r v => exact .inr (.inr (.inl ⟨r, v, rfl, by simpa [performCall] using h.symm⟩))
  | writeCell i v =>
    simp only [performCall, hostWriteCell] at h
    split at h
    · exact .inr (.inr (.inr (.inl ⟨i, v, rfl, ‹_›, by simpa using h.symm⟩)))
    · simp at h
  | run =>
    simp only [performCall, runEntry] at h
    split at h
    · simp at h
    · exact .inr (.inr (.inr (.inr ⟨rfl, ‹_›, by simpa using h.symm⟩)))

end Sys2Proof.Machine
end

