-- ==== Sys2Proof/Laws/Step.lean ====
section
/-!
SUPPORT. What one step can do, said once: the instructions by their ends, the cycle by its three ends, and the step by the run state.
-/

namespace Sys2Proof.Machine

/-! The instructions. The state a data access reaches is the one after `MAR <- addr; MDR <- MemRead(MAR, 1)`. -/

/-- The state after an operand has been read to `MDR`. -/
theorem operand_read (a : Address) (s : State) :
    (readToMdr a.index (s.setMar (.int a.index))).mdr = readCell a.index s := by simp

/-- LOAD: AF_OPERAND, or the cell in `MDR` and `AC` (R101). -/
theorem exec_load_cases {a : Address} {s : State} {r} (h : exec (.load a) s = r) :
    (∃ kind, check s.cfg (.int a.index) = .fault kind ∧ r = .next (raiseFault (.afOperand kind) (.value (.int a.index)) s)) ∨
      (Unfaulted s.cfg a.index ∧ r = .next (advance (traceEntry (.load (readCell a.index s))
        ((readToMdr a.index (s.setMar (.int a.index))).setAc (readCell a.index s))))) := by
  simp only [exec, execLoad] at h
  rcases withOperand_cases h with h | ⟨hu, h⟩
  · exact .inl h
  · exact .inr ⟨hu, by simpa using h⟩

/-- ADD: AF_OPERAND, or the sum in `AC` (R107). -/
theorem exec_add_cases {a : Address} {s : State} {r} (h : exec (.add a) s = r) :
    (∃ kind, check s.cfg (.int a.index) = .fault kind ∧ r = .next (raiseFault (.afOperand kind) (.value (.int a.index)) s)) ∨
      (Unfaulted s.cfg a.index ∧ r = .next (advance (traceEntry (.add (aluAdd s.ac (readCell a.index s)))
        ((readToMdr a.index (s.setMar (.int a.index))).setAc (aluAdd s.ac (readCell a.index s)))))) := by
  simp only [exec, execAdd] at h
  rcases withOperand_cases h with h | ⟨hu, h⟩
  · exact .inl h
  · exact .inr ⟨hu, by simpa using h⟩

/-- SUBTRACT: AF_OPERAND, or the difference in `AC` (R108). -/
theorem exec_subtract_cases {a : Address} {s : State} {r} (h : exec (.subtract a) s = r) :
    (∃ kind, check s.cfg (.int a.index) = .fault kind ∧ r = .next (raiseFault (.afOperand kind) (.value (.int a.index)) s)) ∨
      (Unfaulted s.cfg a.index ∧ r = .next (advance (traceEntry (.sub (aluSub s.ac (readCell a.index s)))
        ((readToMdr a.index (s.setMar (.int a.index))).setAc (aluSub s.ac (readCell a.index s)))))) := by
  simp only [exec, execSubtract] at h
  rcases withOperand_cases h with h | ⟨hu, h⟩
  · exact .inl h
  · exact .inr ⟨hu, by simpa using h⟩

/-- STORE: AF_OPERAND, the cell written, or the refusal of a write outside the Word Store (R102, R59). -/
theorem exec_store_cases {a : Address} {s : State} {r} (h : exec (.store a) s = r) :
    (∃ kind, check s.cfg (.int a.index) = .fault kind ∧ r = .next (raiseFault (.afOperand kind) (.value (.int a.index)) s)) ∨
      (inStore s.cfg a.index = true ∧ r = .next (advance (traceEntry (.store (.int a.index) s.ac)
        ((s.setMar (.int a.index)).setMem (Memory.write s.mem a.toNat s.ac))))) ∨
      (s.cfg.errorLogging = false ∧ inStore s.cfg a.index = false ∧ r = .refused (.outOfRangeWrite a.index)) := by
  simp only [exec, execStore] at h
  rcases withOperand_cases h with h | ⟨hu, h⟩
  · exact .inl h
  · rcases memWrite_cases h.symm with ⟨hin, h⟩ | ⟨hin, h⟩
    · exact .inr (.inl ⟨hin, by simpa using h⟩)
    · exact .inr (.inr ⟨hu.resolve_right fun hc => Bool.noConfusion (hin.symm.trans hc), hin, h⟩)

/-- OUTPUT: AF_OUTPUT, or the trace entry (R111). -/
theorem exec_output_cases {x : Address} {s : State} {r} (h : exec (.output x) s = r) :
    (∃ kind, check s.cfg s.ac = .fault kind ∧ r = .next (raiseFault (.afOutput kind) (.value s.ac) s)) ∨
      (∃ z, s.ac = .int z ∧ Unfaulted s.cfg z ∧
        r = .next (advance (traceEntry (.output (.int z) (fmt s.cfg.parseTo z)) s))) := by
  have h : execOutput x s = r := h
  unfold execOutput at h
  split at h
  · exact .inl ⟨_, ‹_›, h.symm⟩
  · rename_i z hz
    obtain ⟨hv, hu⟩ := check_eq_pass.1 hz
    exact .inr ⟨z, hv, hu, by rw [← h, hv]⟩

/-- An instruction that is a no-op (R115, R116). -/
def IsNoOp : Instr → Prop
  | .op15Nop _ | .unknown0 _ | .unknown7 _ | .unknown8 _ | .unknown9 _ | .unknown10 _ => True
  | .unknown11 _ | .unknown12 _ | .unknown13 _ | .unknown14 _ | .unknownWide _ _ => True
  | .load _ | .store _ | .add _ | .subtract _ | .input _ | .output _ | .halt => False

/-- A no-op only ends its cycle. -/
theorem exec_noOp {i : Instr} (h : IsNoOp i) (s : State) : exec i s = .next (advance s) := by
  cases i <;> first | rfl | exact h.elim

/-- HALT ends its cycle and the run (R114). -/
theorem exec_halt (s : State) : exec .halt s = .next (haltRun (advance s)) := rfl

/-- INPUT makes its request and begins its wait (R110). -/
theorem exec_input (x : Address) (s : State) :
    exec (.input x) s = awaitReply ((s.emit .inputRequest).setPending true) := rfl

/-! The cycle and the step. -/

/-- The three ends of a cycle: AF_FETCH, AF_DECODE, or the decoded instruction on the state after the fetch (R85). -/
theorem cycle_cases {s : State} {r} (h : cycle s = r) :
    (∃ kind, check s.cfg s.pc = .fault kind ∧ r = .next (raiseFault (.afFetch kind) (.value s.pc) s)) ∨
      (∃ p kind, s.pc = .int p ∧ Unfaulted s.cfg p ∧ check s.cfg (readCell p s) = .fault kind ∧
        r = .next (raiseFault (.afDecode kind) (.value (readCell p s)) (fetch p s))) ∨
      (∃ p w, s.pc = .int p ∧ Unfaulted s.cfg p ∧ readCell p s = .int w ∧ Unfaulted s.cfg w ∧
        r = exec (decodeWord w) (fetch p s)) := by
  unfold cycle at h
  split at h
  · exact .inl ⟨_, ‹_›, h.symm⟩
  · rename_i p hp
    obtain ⟨hpc, hu⟩ := check_eq_pass.1 hp
    unfold decodeAndExecute at h
    split at h
    · rename_i k hk
      exact .inr (.inl ⟨p, k, hpc, hu, by simpa using hk, by simpa using h.symm⟩)
    · rename_i w hw
      obtain ⟨hir, hw⟩ := check_eq_pass.1 hw
      exact .inr (.inr ⟨p, w, hpc, hu, by simpa using hir, by simpa using hw, h.symm⟩)

/-- A run in progress, not waiting: a cycle. -/
theorem step_running {s : State} (hr : s.rs = .running) (hw : s.inputPending = false) : step s = cycle s := by
  simp [step, move, hr, hw]

/-- A run in progress, waiting: the rest of INPUT (R39). -/
theorem step_waiting {s : State} (hr : s.rs = .running) (hw : s.inputPending = true) : step s = awaitReply s := by
  simp [step, move, hr, hw]

/-- No run in progress: the host's next call (R40). -/
theorem step_resting {s : State} (hr : s.rs ≠ .running) : step s = serveHost s := by
  unfold step move
  split
  · contradiction
  all_goals rfl

/-- The two ends of serving the host: rest, or one call. -/
theorem serveHost_cases {s : State} {r} (h : serveHost s = r) :
    (s.calls = [] ∧ r = .next s) ∨ (∃ c rest, s.calls = c :: rest ∧ r = performCall c (s.setCalls rest)) := by
  unfold serveHost at h
  split at h
  · exact .inl ⟨‹_›, h.symm⟩
  · exact .inr ⟨_, _, ‹_›, h.symm⟩

/-- Everything a step can be (R39, R40, R85). -/
theorem step_cases {s : State} {r} (h : step s = r) :
    (s.rs ≠ .running ∧ s.calls = [] ∧ r = .next s) ∨
      (∃ c rest, s.rs ≠ .running ∧ s.calls = c :: rest ∧ r = performCall c (s.setCalls rest)) ∨
      (s.rs = .running ∧ s.inputPending = true ∧ r = awaitReply s) ∨
      (s.rs = .running ∧ s.inputPending = false ∧ r = cycle s) := by
  by_cases hr : s.rs = .running
  · cases hw : s.inputPending
    · exact .inr (.inr (.inr ⟨hr, rfl, by rw [← h, step_running hr hw]⟩))
    · exact .inr (.inr (.inl ⟨hr, rfl, by rw [← h, step_waiting hr hw]⟩))
  · rw [step_resting hr] at h
    rcases serveHost_cases h with ⟨hc, h⟩ | ⟨c, rest, hc, h⟩
    · exact .inl ⟨hr, hc, h⟩
    · exact .inr (.inl ⟨c, rest, hr, hc, h⟩)

/-- The host's next call is served when no run is in progress. -/
theorem step_serves {s : State} {c : HostCall} {rest : List HostCall} (hr : s.rs ≠ .running) (hc : s.calls = c :: rest) :
    step s = performCall c (s.setCalls rest) := by
  rw [step_resting hr]
  unfold serveHost
  rw [hc]

/-- A run of the core, one step unrolled. -/
theorem core_run_succ (k : Nat) (s : State) :
    Host.Core.run Sys2Proof.core (k + 1) s = match step s with
      | .next s' => Host.Core.run Sys2Proof.core k s'
      | .fault r => .fault r
      | .refused r => .refused r := by
  cases h : step s
  all_goals
    have h' : Sys2Proof.core.step s = _ := h
    simp only [Host.Core.run, h']

end Sys2Proof.Machine
end

