-- ==== Sys2Proof/Laws/Ends.lean ====
section
/-!
SUPPORT. How an instruction, and a step of a run, can end: it completes, halts, waits, or takes a fault. Whole-machine statements
follow from these by cases, without unfolding an instruction again.
-/

namespace Sys2Proof.Machine

/-- A cycle that completes, from the state its instruction runs on: `PC` advances, the run goes on, and the event history gains
trace and input events and then the debug hook's. -/
structure Completes (s t : State) : Prop where
  mq : t.mq = s.mq
  ir : t.ir = s.ir
  cfg : t.cfg = s.cfg
  calls : t.calls = s.calls
  loadAnswers : t.loadAnswers = s.loadAnswers
  pc : t.pc = nextPc s.pc
  rs : t.rs = s.rs
  events : ∃ l, t.events = s.events ++ l ++ debugShown s.cfg (nextPc s.pc) ∧
    ∀ e ∈ l, (∃ x, e = .trace x) ∨ e = .inputRequest ∨ ∃ r, e = .inputReply r

theorem mem_tracesShown {c : Configuration} {l : List TraceEntry} {e : Event} (h : e ∈ tracesShown c l) : ∃ x, e = .trace x := by
  unfold tracesShown at h
  split at h
  · obtain ⟨x, _, rfl⟩ := List.mem_map.1 h
    exact ⟨x, rfl⟩
  · simp at h

theorem mem_debugShown {c : Configuration} {v : Value} {e : Event} (h : e ∈ debugShown c v) : e = .debug v := by
  unfold debugShown at h
  split at h
  · simpa using h
  · simp at h

/-- INPUT's trace entry, if any, is a trace event. -/
theorem mem_inputTrace {c : Configuration} {v : Value} {e : Event}
    (h : e ∈ if Config.traceInput = true then tracesShown c [.input v] else []) : ∃ x, e = .trace x := by
  split at h
  · exact mem_tracesShown h
  · simp at h

/-- A no-op's cycle. -/
theorem advance_completes (s : State) : Completes s (advance s) where
  mq := by simp
  ir := by simp
  cfg := by simp
  calls := by simp
  loadAnswers := by simp
  pc := by simp
  rs := by simp
  events := ⟨[], by simp, by simp⟩

/-- A handler that changes data and perhaps traces, then ends its cycle. -/
theorem traced_completes {s u : State} (e : TraceEntry) (mq : u.mq = s.mq) (ir : u.ir = s.ir) (cfg : u.cfg = s.cfg)
    (calls : u.calls = s.calls) (loadAnswers : u.loadAnswers = s.loadAnswers) (pc : u.pc = s.pc) (rs : u.rs = s.rs)
    (events : u.events = s.events) : Completes s (advance (traceEntry e u)) where
  mq := by simpa using mq
  ir := by simpa using ir
  cfg := by simpa using cfg
  calls := by simpa using calls
  loadAnswers := by simpa using loadAnswers
  pc := by simp [pc]
  rs := by simpa using rs
  events := ⟨tracesShown s.cfg [e], by simp [events, cfg, pc], fun _ h => .inl (mem_tracesShown h)⟩

/-- INPUT with its reply taken ends its cycle. -/
theorem replied_completes (r : Reply) (v : Value) (s : State) :
    Completes s (advance (traceInputEntry ((s.emit (.inputReply r)).setAc v))) where
  mq := by simp
  ir := by simp
  cfg := by simp
  calls := by simp
  loadAnswers := by simp
  pc := by simp
  rs := by simp
  events := ⟨.inputReply r :: (if Config.traceInput = true then tracesShown s.cfg [.input v] else []), by simp, fun e h => by
    rcases List.mem_cons.1 h with rfl | h
    · exact .inr (.inr ⟨r, rfl⟩)
    · exact .inl (mem_inputTrace h)⟩

/-- INPUT's fault, as a whole: the reply is taken, `AC` is the draw, and INPUT_PARSE is raised (R110, R122). -/
def parseFault (rest : List Reply) (s : State) : State :=
  raiseFault .inputParse (.reply .unparseable)
    (drawInputFaultAc (((s.setReplies rest).setPending false).emit (.inputReply .unparseable)))

/-- The ends of INPUT's wait: it goes on waiting, completes, or takes INPUT_PARSE. -/
theorem awaitReply_ends {s t : State} (h : awaitReply s = .next t) :
    (s.replies = [] ∧ t = s) ∨
      (∃ r rest, s.replies = r :: rest ∧ t.replies = rest ∧ t.inputPending = false ∧
        Completes ((s.setReplies rest).setPending false) t ∧ t.mar = s.mar ∧ t.mdr = s.mdr ∧ t.mem = s.mem ∧ t.draws = s.draws ∧
        t.ac = match r with
          | .int z => .int z
          | .unparseable => .invalid) ∨
      (∃ rest, s.replies = .unparseable :: rest ∧ s.cfg.errorLogging = true ∧ t = parseFault rest s) := by
  rcases awaitReply_cases h with h | ⟨r, rest, hr, rfl⟩
  · exact .inl h
  · rcases acceptReply_cases r ((s.setReplies rest).setPending false) with ⟨z, rfl, h⟩ | ⟨rfl, he, h⟩ | ⟨rfl, he, h⟩ <;> rw [h]
    · exact .inr (.inl ⟨_, rest, hr, by simp, by simp, replied_completes _ _ _, by simp, by simp, by simp, by simp, by simp⟩)
    · exact .inr (.inr ⟨rest, hr, by simpa using he, rfl⟩)
    · exact .inr (.inl ⟨_, rest, hr, by simp, by simp, replied_completes _ _ _, by simp, by simp, by simp, by simp, by simp⟩)

/-- The ends of an instruction. -/
theorem exec_ends {i : Instr} {s t : State} (h : exec i s = .next t) :
    ((∀ x, i ≠ .input x) ∧ i ≠ .halt ∧ Completes s t ∧ t.inputPending = s.inputPending ∧ t.replies = s.replies) ∨
      (i = .halt ∧ t = haltRun (advance s)) ∨
      (∃ x, i = .input x ∧ awaitReply ((s.emit .inputRequest).setPending true) = .next t) ∨
      (∃ k a, check s.cfg (.int (Address.index a)) = .fault k ∧ (i = .load a ∨ i = .store a ∨ i = .add a ∨ i = .subtract a) ∧
        t = raiseFault (.afOperand k) (.value (.int (Address.index a))) s) ∨
      (∃ k x, check s.cfg s.ac = .fault k ∧ i = .output x ∧ t = raiseFault (.afOutput k) (.value s.ac) s) := by
  have noOp : IsNoOp i →
      (∀ x, i ≠ .input x) ∧ i ≠ .halt ∧ Completes s t ∧ t.inputPending = s.inputPending ∧ t.replies = s.replies := by
    intro hi
    rw [exec_noOp hi] at h
    cases h
    exact ⟨fun x hx => by subst hx; exact hi, fun hx => by subst hx; exact hi, advance_completes s, by simp, by simp⟩
  cases i with
  | load a =>
    rcases exec_load_cases h with ⟨k, hk, h⟩ | ⟨_, h⟩ <;> cases h
    · exact .inr (.inr (.inr (.inl ⟨k, a, hk, .inl rfl, rfl⟩)))
    · exact .inl ⟨by simp, by simp, traced_completes _ (by simp) (by simp) (by simp) (by simp) (by simp) (by simp) (by simp) (by simp),
        by simp, by simp⟩
  | store a =>
    rcases exec_store_cases h with ⟨k, hk, h⟩ | ⟨_, h⟩ | ⟨_, _, h⟩ <;> cases h
    · exact .inr (.inr (.inr (.inl ⟨k, a, hk, .inr (.inl rfl), rfl⟩)))
    · exact .inl ⟨by simp, by simp, traced_completes _ (by simp) (by simp) (by simp) (by simp) (by simp) (by simp) (by simp) (by simp),
        by simp, by simp⟩
  | add a =>
    rcases exec_add_cases h with ⟨k, hk, h⟩ | ⟨_, h⟩ <;> cases h
    · exact .inr (.inr (.inr (.inl ⟨k, a, hk, .inr (.inr (.inl rfl)), rfl⟩)))
    · exact .inl ⟨by simp, by simp, traced_completes _ (by simp) (by simp) (by simp) (by simp) (by simp) (by simp) (by simp) (by simp),
        by simp, by simp⟩
  | subtract a =>
    rcases exec_subtract_cases h with ⟨k, hk, h⟩ | ⟨_, h⟩ <;> cases h
    · exact .inr (.inr (.inr (.inl ⟨k, a, hk, .inr (.inr (.inr rfl)), rfl⟩)))
    · exact .inl ⟨by simp, by simp, traced_completes _ (by simp) (by simp) (by simp) (by simp) (by simp) (by simp) (by simp) (by simp),
        by simp, by simp⟩
  | input x => exact .inr (.inr (.inl ⟨x, rfl, h⟩))
  | output x =>
    rcases exec_output_cases h with ⟨k, hk, h⟩ | ⟨z, _, _, h⟩ <;> cases h
    · exact .inr (.inr (.inr (.inr ⟨k, x, hk, rfl, rfl⟩)))
    · exact .inl ⟨by simp, by simp, traced_completes _ rfl rfl rfl rfl rfl rfl rfl rfl, by simp, by simp⟩
  | halt => cases h; exact .inr (.inl ⟨rfl, rfl⟩)
  | op15Nop | unknown0 | unknown7 | unknown8 | unknown9 | unknown10 | unknown11 | unknown12 | unknown13 | unknown14 | unknownWide =>
    exact .inl (noOp trivial)

/-- `Fetches` with its checks read as what they ask of the configuration. -/
theorem fetches_iff {s : State} {p w : Int} :
    Fetches s p w ↔ s.rs = .running ∧ s.inputPending = false ∧ s.pc = .int p ∧ Unfaulted s.cfg p ∧ readCell p s = .int w ∧
      Unfaulted s.cfg w := by
  simp [Fetches, check_eq_pass]

/-- The ends of a step of a run: the rest of a wait, AF_FETCH, AF_DECODE, or an instruction's end. -/
theorem run_ends {s : State} {r} (hr : s.rs = .running) (h : step s = r) :
    (s.inputPending = true ∧ r = awaitReply s) ∨
      (∃ k, s.inputPending = false ∧ check s.cfg s.pc = .fault k ∧ r = .next (raiseFault (.afFetch k) (.value s.pc) s)) ∨
      (∃ p k, s.inputPending = false ∧ s.pc = .int p ∧ Unfaulted s.cfg p ∧ check s.cfg (readCell p s) = .fault k ∧
        r = .next (raiseFault (.afDecode k) (.value (readCell p s)) (fetch p s))) ∨
      (∃ p w, Fetches s p w ∧ r = exec (decodeWord w) (fetch p s)) := by
  rcases step_cases h with ⟨hn, _⟩ | ⟨_, _, hn, _⟩ | ⟨_, hp, h⟩ | ⟨_, hp, h⟩
  · exact absurd hr hn
  · exact absurd hr hn
  · exact .inl ⟨hp, h⟩
  · rcases cycle_cases h.symm with ⟨k, hk, h⟩ | ⟨p, k, hpc, hu, hk, h⟩ | ⟨p, w, hpc, hu, hw, hv, h⟩
    · exact .inr (.inl ⟨k, hp, hk, h⟩)
    · exact .inr (.inr (.inl ⟨p, k, hp, hpc, hu, hk, h⟩))
    · exact .inr (.inr (.inr ⟨p, w, fetches_iff.2 ⟨hr, hp, hpc, hu, hw, hv⟩, h⟩))

/-- Appending to the event history appends its trace entries to the trace log. -/
theorem traceLog_append {s t : State} {l : List Event} (h : t.events = s.events ++ l) :
    t.traceLog = s.traceLog ++ l.filterMap Event.entry := by
  unfold State.traceLog
  rw [h, List.filterMap_append]

/-- An instruction leaves the Word Store alone, or writes `AC` to the one cell an address field names. -/
theorem exec_mem {i : Instr} {s t : State} (h : exec i s = .next t) :
    t.mem = s.mem ∨ ∃ a : Address, inStore s.cfg a.index = true ∧ t.mem = Memory.write s.mem a.toNat s.ac := by
  cases i with
  | load a => rcases exec_load_cases h with ⟨k, _, h⟩ | ⟨_, h⟩ <;> cases h <;> simp
  | add a => rcases exec_add_cases h with ⟨k, _, h⟩ | ⟨_, h⟩ <;> cases h <;> simp
  | subtract a => rcases exec_subtract_cases h with ⟨k, _, h⟩ | ⟨_, h⟩ <;> cases h <;> simp
  | store a =>
    rcases exec_store_cases h with ⟨k, _, h⟩ | ⟨hi, h⟩ | ⟨_, _, h⟩ <;> cases h
    · simp
    · exact .inr ⟨a, hi, by simp⟩
  | input x =>
    rcases awaitReply_ends (by exact h) with ⟨_, rfl⟩ | ⟨r, rest, _, _, _, hc, h1, h2, h3, _⟩ | ⟨rest, _, _, rfl⟩
    · simp
    · exact .inl (by simpa using h3)
    · simp [parseFault]
  | output x => rcases exec_output_cases h with ⟨k, _, h⟩ | ⟨z, _, _, h⟩ <;> cases h <;> simp
  | halt => cases h; simp
  | op15Nop | unknown0 | unknown7 | unknown8 | unknown9 | unknown10 | unknown11 | unknown12 | unknown13 | unknown14 |
    unknownWide => rw [exec_noOp (by trivial)] at h; cases h; simp

end Sys2Proof.Machine
end

