-- ==== Sys2Proof/Laws/Memory.lean ====
section
/-!
SUPPORT. The laws of the Word Store as data: a read after a write, and the canonical form, which every memory operation keeps.
-/

namespace Sys2Proof.Machine

theorem Memory.read_drop (m : Memory) (i j : Nat) :
    Memory.read (Memory.drop m i) j = if j = i then .int 0 else Memory.read m j := by
  induction m with
  | nil => simp [Memory.drop, Memory.read]
  | cons e m ih =>
    obtain ⟨k, u⟩ := e
    simp only [Memory.drop, ne_eq, decide_not] at ih ⊢
    by_cases hk : k = i
    · subst hk
      by_cases hj : j = k
      · subst hj
        simpa using ih
      · simp [Memory.read, ih, hj, Ne.symm hj]
    · by_cases hj : k = j
      · subst hj
        simp [Memory.read, hk]
      · simp [Memory.read, hk, hj, ih]

theorem Memory.read_place (m : Memory) (i j : Nat) (v : Value) (absent : ∀ e ∈ m, e.1 ≠ i) :
    Memory.read (Memory.place m i v) j = if j = i then v else Memory.read m j := by
  induction m with
  | nil => by_cases hj : i = j <;> simp [Memory.place, Memory.read, hj, eq_comm]
  | cons e m ih =>
    obtain ⟨k, u⟩ := e
    have hk : k ≠ i := absent (k, u) (by simp)
    have ih' := ih fun e he => absent e (by simp [he])
    simp only [Memory.place]
    split
    · by_cases hj : i = j <;> simp [Memory.read, hj, eq_comm]
    · by_cases hj : k = j
      · subst hj
        simp [Memory.read, hk]
      · simp [Memory.read, hj, ih']

theorem Memory.drop_absent (m : Memory) (i : Nat) : ∀ e ∈ Memory.drop m i, e.1 ≠ i := by
  simp [Memory.drop]

/-- A read after a write: the value written at its cell, the old value at every other (R60, R63), for any list. -/
theorem Memory.read_write (m : Memory) (i j : Nat) (v : Value) :
    Memory.read (Memory.write m i v) j = if j = i then v else Memory.read m j := by
  unfold Memory.write
  split
  · rename_i h
    simp [Memory.read_drop, h]
  · rw [Memory.read_place _ _ _ _ (Memory.drop_absent m i), Memory.read_drop]
    by_cases hj : j = i <;> simp [hj]

@[simp] theorem Memory.read_write_same (m : Memory) (i : Nat) (v : Value) :
    Memory.read (Memory.write m i v) i = v := by
  simp [Memory.read_write]

theorem Memory.read_write_other (m : Memory) {i j : Nat} (v : Value) (h : j ≠ i) :
    Memory.read (Memory.write m i v) j = Memory.read m j := by
  simp [Memory.read_write, h]

theorem Memory.mem_place (m : Memory) (i : Nat) (v : Value) (e : Nat × Value) :
    e ∈ Memory.place m i v ↔ e = (i, v) ∨ e ∈ m := by
  induction m with
  | nil => simp [Memory.place]
  | cons d m ih =>
    obtain ⟨k, u⟩ := d
    simp only [Memory.place]
    split
    · simp
    · simp only [List.mem_cons, ih]
      tauto

/-- What a write can leave in the list: its own entry, or one that was there. -/
theorem Memory.mem_write {m : Memory} {i : Nat} {v : Value} {e : Nat × Value} (h : e ∈ Memory.write m i v) :
    e = (i, v) ∨ e ∈ m := by
  unfold Memory.write at h
  split at h
  · exact .inr (List.mem_of_mem_filter h)
  · rcases (Memory.mem_place _ _ _ _).1 h with h | h
    · exact .inl h
    · exact .inr (List.mem_of_mem_filter h)

theorem Memory.wf_nil : Memory.WF [] := ⟨List.Pairwise.nil, fun _ h => absurd h (List.not_mem_nil)⟩

theorem Memory.drop_wf {m : Memory} (h : Memory.WF m) (i : Nat) : Memory.WF (Memory.drop m i) :=
  ⟨h.1.filter _, fun e he => h.2 e (List.mem_of_mem_filter he)⟩

theorem Memory.place_wf {m : Memory} (h : Memory.WF m) {i : Nat} {v : Value} (absent : ∀ e ∈ m, e.1 ≠ i) (nonzero : v ≠ .int 0) :
    Memory.WF (Memory.place m i v) := by
  constructor
  · induction m with
    | nil => simp [Memory.place]
    | cons d m ih =>
      obtain ⟨k, u⟩ := d
      have hp := List.pairwise_cons.1 h.1
      have hk : k ≠ i := absent (k, u) (by simp)
      simp only [Memory.place]
      split
      · rename_i hlt
        refine List.pairwise_cons.2 ⟨fun e he => ?_, h.1⟩
        rcases List.mem_cons.1 he with rfl | he
        · exact hlt
        · exact lt_trans hlt (hp.1 e he)
      · refine List.pairwise_cons.2 ⟨fun e he => ?_, ih ⟨hp.2, fun e he => h.2 e (by simp [he])⟩ fun e he => absent e (by simp [he])⟩
        rcases (Memory.mem_place _ _ _ _).1 he with rfl | he
        · show k < i
          omega
        · exact hp.1 e he
  · intro e he
    rcases (Memory.mem_place _ _ _ _).1 he with rfl | he
    · exact nonzero
    · exact h.2 e he

/-- A write keeps the canonical form. -/
theorem Memory.write_wf {m : Memory} (h : Memory.WF m) (i : Nat) (v : Value) : Memory.WF (Memory.write m i v) := by
  unfold Memory.write
  split
  · exact Memory.drop_wf h i
  · rename_i hv
    exact Memory.place_wf (Memory.drop_wf h i) (Memory.drop_absent m i) hv

/-- The loader's copy keeps the canonical form. -/
theorem Memory.writeAll_wf (vs : List Value) : ∀ {m : Memory} (i : Nat), Memory.WF m → Memory.WF (Memory.writeAll m i vs) := by
  induction vs with
  | nil => exact fun _ h => h
  | cons v vs ih => exact fun i h => ih (i + 1) (Memory.write_wf h i v)

/-- What the loader's copy can leave in the list: an entry of its own range, or one that was there. -/
theorem Memory.mem_writeAll (vs : List Value) :
    ∀ {m : Memory} {i : Nat} {e : Nat × Value}, e ∈ Memory.writeAll m i vs → e.1 < i + vs.length ∨ e ∈ m := by
  induction vs with
  | nil => exact fun h => .inr h
  | cons v vs ih =>
    intro m i e h
    rcases ih h with h | h
    · exact .inl (by simp only [List.length_cons]; omega)
    · rcases Memory.mem_write h with rfl | h
      · exact .inl (by simp)
      · exact .inr h

/-- A read after the loader's copy: the word of its own range, the old value elsewhere. -/
theorem Memory.read_writeAll (vs : List Value) :
    ∀ (m : Memory) (i j : Nat),
      Memory.read (Memory.writeAll m i vs) j = if i ≤ j then vs.getD (j - i) (Memory.read m j) else Memory.read m j := by
  induction vs with
  | nil => simp [Memory.writeAll]
  | cons v vs ih =>
    intro m i j
    rw [Memory.writeAll, ih, Memory.read_write]
    by_cases hij : i ≤ j
    · by_cases he : j = i
      · subst he
        simp
      · have h1 : i + 1 ≤ j := by omega
        have h2 : j - i = (j - (i + 1)) + 1 := by omega
        simp [hij, he, h1, h2]
    · have h1 : ¬ i + 1 ≤ j := by omega
      have h2 : j ≠ i := by omega
      simp [hij, h1, h2]

end Sys2Proof.Machine
end

