-- ==== Sys2Proof/Laws/PerInstr.lean ====
section
/-!
SUPPORT. One statement for every instruction: its word carries its opcode above bit 7 and its address field in bits 7:0 (30_encoding.md
R69, R71), with one lemma for each constructor.
-/

namespace Sys2Proof.Laws.WordFields

/-- The word of the instruction gives back the two fields it was made from. -/
def Statement (i : Instr) : Prop := opcodeField (encode i) = i.opcode ∧ addressField (encode i) = i.address

theorem load (a : Address) : Statement (.load a) := ⟨opcodeField_encode _, addressField_encode _⟩

theorem store (a : Address) : Statement (.store a) := ⟨opcodeField_encode _, addressField_encode _⟩

theorem add (a : Address) : Statement (.add a) := ⟨opcodeField_encode _, addressField_encode _⟩

theorem subtract (a : Address) : Statement (.subtract a) := ⟨opcodeField_encode _, addressField_encode _⟩

theorem input (x : Address) : Statement (.input x) := ⟨opcodeField_encode _, addressField_encode _⟩

theorem output (x : Address) : Statement (.output x) := ⟨opcodeField_encode _, addressField_encode _⟩

theorem halt : Statement .halt := ⟨opcodeField_encode _, addressField_encode _⟩

theorem op15Nop (x : Address) : Statement (.op15Nop x) := ⟨opcodeField_encode _, addressField_encode _⟩

theorem unknown0 (x : Address) : Statement (.unknown0 x) := ⟨opcodeField_encode _, addressField_encode _⟩

theorem unknown7 (x : Address) : Statement (.unknown7 x) := ⟨opcodeField_encode _, addressField_encode _⟩

theorem unknown8 (x : Address) : Statement (.unknown8 x) := ⟨opcodeField_encode _, addressField_encode _⟩

theorem unknown9 (x : Address) : Statement (.unknown9 x) := ⟨opcodeField_encode _, addressField_encode _⟩

theorem unknown10 (x : Address) : Statement (.unknown10 x) := ⟨opcodeField_encode _, addressField_encode _⟩

theorem unknown11 (x : Address) : Statement (.unknown11 x) := ⟨opcodeField_encode _, addressField_encode _⟩

theorem unknown12 (x : Address) : Statement (.unknown12 x) := ⟨opcodeField_encode _, addressField_encode _⟩

theorem unknown13 (x : Address) : Statement (.unknown13 x) := ⟨opcodeField_encode _, addressField_encode _⟩

theorem unknown14 (x : Address) : Statement (.unknown14 x) := ⟨opcodeField_encode _, addressField_encode _⟩

theorem unknownWide (opcode : Int) (x : Address) : Statement (.unknownWide opcode x) := ⟨opcodeField_encode _, addressField_encode _⟩

end Sys2Proof.Laws.WordFields
end

