-- ==== Sys2Proof/Tests/Slice0.lean ====
section
/-!
SUPPORT. The model's own tests, with expected results from spec/95_test_vectors.md (the vector is named at each), and one witness
for each obligation with hypotheses, at the boundary values of its clauses.
-/

open Sys2Proof Sys2Proof.Machine

namespace Sys2Proof.Tests

/-! Small states and views. -/

/-- A run in progress with N cells, `errorLogging`, `PC`, `AC` and the listed cells; everything else as after construction. -/
def running (n : Nat) (el : Bool) (pc : Value) (ac : Value) (cells : Memory) : State :=
  { State.constructed ⟨n, el, false, true, .hexadecimal⟩ with pc := pc, ac := ac, mem := cells, rs := .running }

/-- The same, with a queue of replies. -/
def replying (el : Bool) (replies : List Reply) (cells : Memory) : State :=
  { running 4096 el (.int 0) (.int 7) cells with replies := replies }

/-- The state in which INPUT waits for a reply, as the step reaches it. -/
def waiting (el : Bool) (replies : List Reply) : State :=
  { replying el replies [(0, .int 1280)] with
    ir := .int 1280, inputPending := true, events := [.inputRequest] }

/-- An end of a run, or a fresh machine, with calls to serve. -/
def resting (n : Nat) (rs : RunState) (events : List Event) (calls : List HostCall) : State :=
  { State.constructed ⟨n, false, false, true, .hexadecimal⟩ with rs := rs, events := events, calls := calls }

/-- The next state, where there is one. -/
def nextOf : Host.Outcome State Fault Refusal → Option State
  | .next s => some s
  | .fault _ => none
  | .refused _ => none

/-- The refusal, where there is one. -/
def refusalOf : Host.Outcome State Fault Refusal → Option Refusal
  | .next _ => none
  | .fault _ => none
  | .refused r => some r

/-- One value of the next state. -/
def after {α : Type} (f : State → α) (s : State) : Option α := (nextOf (step s)).map f

/-! Well-formedness: an ill-formed term for each check, and a well-formed neighbour. -/

theorem test_wf_op15Nop : (Instr.op15Nop 0#8).wf = false ∧ (Instr.op15Nop 1#8).wf = true := by decide
theorem test_wf_wide_low : (Instr.unknownWide 0 5#8).wf = false ∧ (Instr.unknownWide (-1) 5#8).wf = true := by decide
theorem test_wf_wide_high : (Instr.unknownWide 15 5#8).wf = false ∧ (Instr.unknownWide 16 5#8).wf = true := by decide

/-! Decoding of words written out bit by bit: opcode in bits 11:8, address in bits 7:0 (R69), opcodes as R77 gives them. -/

theorem test_decode_load : decodeWord 0b000100001010 = .load 10#8 := by decide
theorem test_decode_store : decodeWord 0b001000001100 = .store 12#8 := by decide
theorem test_decode_add : decodeWord 0b001100001011 = .add 11#8 := by decide
theorem test_decode_subtract : decodeWord 0b010011111110 = .subtract 254#8 := by decide
theorem test_decode_input : decodeWord 0b010100000001 = .input 1#8 := by decide
theorem test_decode_output : decodeWord 0b011010000000 = .output 128#8 := by decide
theorem test_decode_halt : decodeWord 0b111100000000 = .halt := by decide
theorem test_decode_op15Nop : decodeWord 0b111110000001 = .op15Nop 129#8 := by decide
theorem test_decode_unknown0 : decodeWord 0b000000000101 = .unknown0 5#8 := by decide
theorem test_decode_unknown7 : decodeWord 0b011100000011 = .unknown7 3#8 := by decide
theorem test_decode_unknown8 : decodeWord 0b100000000000 = .unknown8 0#8 := by decide
theorem test_decode_unknown9 : decodeWord 0b100111000000 = .unknown9 192#8 := by decide
theorem test_decode_unknown10 : decodeWord 0b101000000001 = .unknown10 1#8 := by decide
theorem test_decode_unknown11 : decodeWord 0b101111111111 = .unknown11 255#8 := by decide
theorem test_decode_unknown12 : decodeWord 0b110000000010 = .unknown12 2#8 := by decide
theorem test_decode_unknown13 : decodeWord 0b110101010101 = .unknown13 85#8 := by decide
theorem test_decode_unknown14 : decodeWord 0b111010101010 = .unknown14 170#8 := by decide
/-- 4096 has opcode 16; -1 has opcode -1 and address 255 (R72). -/
theorem test_decode_unknownWide :
    decodeWord 0b1000000000000 = .unknownWide 16 0#8 ∧ decodeWord (-1) = .unknownWide (-1) 255#8 := by decide
theorem test_decode_invalid : decode .invalid = .error .notAWord := rfl
/-- L1.1. -/
theorem test_encode : encode (.load 255#8) = 511 ∧ encode (.store 128#8) = 640 ∧ encode (.add 1#8) = 769 ∧
    encode (.subtract 254#8) = 1278 ∧ encode (.op15Nop 255#8) = 4095 ∧ encode .halt = 3840 := by decide
theorem test_decodeTableWord : decodeTableWord 16 0b0001000100001010 = some (.unknownWide 17 10#8) ∧
    decodeTableWord 12 0b000100001010 = some (.load 10#8) := by decide

/-! One step of each instruction. -/

/-- LS1. -/
theorem test_load : let s := running 4096 true (.int 0) (.int 0) [(0, .int 266), (10, .int 5)]
    after (fun t => (t.ac, t.mdr, t.mar, t.pc, t.events)) s =
      some (.int 5, .int 5, .int 10, .int 1, [.trace (.load (.int 5))]) := by decide
/-- LS6: with N = 200 and EL the word itself fails the decode check. -/
theorem test_load_small_store : let s := running 200 true (.int 0) (.int 1) [(0, .int 506)]
    after (fun t => (t.rs, t.pc, t.ac, t.events)) s =
      some (.faulted, .int 0, .int 1, [.diag (.afDecode .outOfRange) (.value (.int 506))]) := by decide
/-- LS9. -/
theorem test_store_unmasked : let s := running 4096 true (.int 0) (.int 100000) [(0, .int 524)]
    after (fun t => (Memory.read t.mem 12, t.mdr, t.mar, t.events)) s =
      some (.int 100000, .int 0, .int 12, [.trace (.store (.int 12) (.int 100000))]) := by decide
/-- LS11. -/
theorem test_store_refused : refusalOf (step (running 200 false (.int 0) (.int 1) [(0, .int 762)])) =
    some (.outOfRangeWrite 250) := by decide
/-- AS11: the operand is the instruction's own word. -/
theorem test_add_own_word : let s := running 4096 true (.int 11) (.int 1) [(11, .int 779)]
    after (fun t => (t.ac, t.mdr, t.pc)) s = some (.int 780, .int 779, .int 12) := by decide
/-- AS5. -/
theorem test_add_invalid : let s := running 4096 true (.int 0) (.int 5) [(0, .int 779), (11, .invalid)]
    after (fun t => (t.ac, t.mdr, t.rs, t.events)) s =
      some (.invalid, .invalid, .running, [.trace (.add .invalid)]) := by decide
/-- AS6. -/
theorem test_subtract_order : let s := running 4096 true (.int 0) (.int 12) [(0, .int 1035), (11, .int 7)]
    after (fun t => (t.ac, t.events)) s = some (.int 5, [.trace (.sub (.int 5))]) := by decide
/-- AS7. -/
theorem test_subtract_below_zero : let s := running 4096 true (.int 0) (.int 0) [(0, .int 1035), (11, .int 1)]
    after State.ac s = some (.int (-1)) := by decide
/-- IN6. -/
theorem test_input_waits : let s := replying true [] [(0, .int 1280)]
    after (fun t => (t.inputPending, t.pc, t.rs, t.events)) s = some (true, .int 0, .running, [.inputRequest]) := by decide
/-- IN5: all but the free `AC`. -/
theorem test_input_parse_fault : let s := replying true [.unparseable, .int 3] [(0, .int 1280)]
    after (fun t => (t.pc, t.rs, t.replies, t.events)) s = some (.int 0, .faulted, [.int 3],
      [.inputRequest, .inputReply .unparseable, .diag .inputParse (.reply .unparseable)]) := by decide
/-- OU8: with `logging` off nothing but `PC` and the fetch's registers changes. -/
theorem test_output_unlogged : let s := (running 4096 true (.int 0) (.int 255) [(0, .int 1536)]).withLogging false
    after (fun t => (t.ac, t.pc, t.events)) s = some (.int 255, .int 1, []) := by decide
/-- OU4. -/
theorem test_output_fault : let s := running 4096 true (.int 0) (.int (-1)) [(0, .int 1536)]
    after (fun t => (t.pc, t.rs, t.events)) s =
      some (.int 0, .faulted, [.diag (.afOutput .outOfRange) (.value (.int (-1)))]) := by decide
/-- HN3. -/
theorem test_halt : let s := (running 4096 true (.int 0) (.int 0) [(0, .int 3840)]).withDebug true
    after (fun t => (t.rs, t.pc, t.mar, t.ir, t.events)) s =
      some (.halted, .int 1, .int 0, .int 3840, [.debug (.int 1), .done]) := by decide
/-- HN4. -/
theorem test_halt_small_store : let s := running 3840 true (.int 7) (.int 0) [(7, .int 3840)]
    after (fun t => (t.rs, t.pc, t.events)) s =
      some (.faulted, .int 7, [.diag (.afDecode .outOfRange) (.value (.int 3840))]) := by decide
/-- HN7. -/
theorem test_op15Nop : let s := running 4096 true (.int 7) (.int 2) [(7, .int 4095)]
    after (fun t => (t.rs, t.pc, t.ac, t.events)) s = some (.running, .int 8, .int 2, []) := by decide
/-- HN8. -/
theorem test_unknown0 : let s := running 4096 true (.int 7) (.int 2) []
    after (fun t => (t.rs, t.pc, t.ac, t.events)) s = some (.running, .int 8, .int 2, []) := by decide
/-- HN9. -/
theorem test_unknown7 : let s := running 4096 true (.int 7) (.int 2) [(7, .int 1792)]
    after (fun t => (t.rs, t.pc, t.ac, t.events)) s = some (.running, .int 8, .int 2, []) := by decide
/-- HN12. -/
theorem test_unknownWide : let s := running 4096 false (.int 7) (.int 2) [(7, .int (-1))]
    after (fun t => (t.rs, t.pc, t.ir, t.ac)) s = some (.running, .int 8, .int (-1), .int 2) := by decide
/-- HN14. -/
theorem test_invalid_word : let s := running 4096 false (.int 0) (.int 2) [(0, .invalid)]
    after (fun t => (t.rs, t.pc, t.ir, t.events)) s =
      some (.faulted, .int 0, .invalid, [.diag (.afDecode .notInteger) (.value .invalid)]) := by decide
/-- CY4. -/
theorem test_fetch_fault : let s := running 4096 true (.int 4096) (.int 0) []
    after (fun t => (t.rs, t.mar, t.ir, t.events)) s =
      some (.faulted, .int 0, .int 0, [.diag (.afFetch .outOfRange) (.value (.int 4096))]) := by decide

/-! The host's ports. -/

/-- LD1, LD3, LD4: the sentinel is appended unless the sequence holds one. -/
theorem test_amend : amendProgram [.int 266] = [.int 266, .int 3840] ∧
    amendProgram [.int 5, .int 3840, .int 7] = [.int 5, .int 3840, .int 7] ∧ amendProgram [] = [.int 3840] := by decide
/-- LD8. -/
theorem test_load_program :
    let s := { resting 4096 .idle [] [.loadProgram (.sequence [.int 9])] with
      mem := [(0, .int 1), (1, .int 2), (2, .int 3), (3, .int 4)] }
    after State.mem s = some [(0, .int 9), (1, .int 3840), (2, .int 3), (3, .int 4)] := by decide
/-- LD6. -/
theorem test_load_overflow : refusalOf (step (resting 2 .idle [] [.loadProgram (.sequence [.int 1, .int 2])])) =
    some .loadOverflow := by decide
/-- CY1. -/
theorem test_run_after_fault : refusalOf (step (resting 2 .faulted [] [.run])) = some .runAfterFault := by decide

/-! The Word Store's form, and the placing of a word. -/

theorem test_reset_memory : Memory.WF State.reset.mem := by decide
theorem test_memory_canonical : Memory.write [(1, .int 2), (5, .int 3)] 5 (.int 0) = [(1, .int 2)] ∧
    Memory.write [(1, .int 2), (5, .int 3)] 3 .invalid = [(1, .int 2), (3, .invalid), (5, .int 3)] := by decide
/-- After reset the placed word is the first instruction to run. -/
theorem test_withFetchWord : after (fun t => (t.rs, t.ir, t.pc)) (State.reset.withFetchWord 16 1792) =
    some (.running, .int 1792, .int 1) := by decide
/-- Without a call the machine rests. -/
theorem test_reset_rests : nextOf (step State.reset) = some State.reset := by decide

/-! Witnesses: for each obligation with hypotheses, states and operands that meet them. -/

/-- What `Fetches` asks, as a decidable statement. -/
theorem fetches_of {s : State} {p w : Int} (h : s.rs = .running ∧ s.inputPending = false ∧ s.pc = .int p ∧
    check s.cfg (.int p) = .pass p ∧ readCell p s = .int w ∧ check s.cfg (.int w) = .pass w) : Fetches s p w := h

/-- The last cell, and the first outside, of a store of 200 cells. -/
theorem witness_WordStoreWrite : let s := running 200 false (.int 0) (.int 0) []
    ((0 : Int) ≤ 199 ∧ (199 : Int) < (s.cfg.memorySize : Int)) ∧ ((0 : Int) ≤ 0 ∧ (0 : Int) < (s.cfg.memorySize : Int)) ∧
      (s.cfg.memorySize : Int) ≤ 200 ∧ (-1 : Int) < 0 := by decide
theorem witness_AddressingCheck : let c : Configuration := ⟨200, true, false, true, .hexadecimal⟩
    c.errorLogging = true ∧ (c.memorySize : Int) ≤ 200 ∧ (-1 : Int) < 0 ∧ (199 : Int) < (c.memorySize : Int) ∧
      Configuration.standard.errorLogging = false := by decide
theorem witness_DecodeOfEncode : (Instr.load 255#8).wf = true ∧ (Instr.op15Nop 255#8).wf = true ∧ Instr.halt.wf = true ∧
    (Instr.unknownWide (-1) 0#8).wf = true ∧ (Instr.unknownWide 16 255#8).wf = true ∧ (Instr.unknown0 0#8).wf = true := by decide
theorem witness_CodecFieldsRoundTrip : (15 : Int) ∈ [1, 2, 3, 4, 5, 6, 15] ∧ (0 : Int) ≤ 255 ∧ (255 : Int) < 256 ∧
    (1 : Int) ∈ [1, 2, 3, 4, 5, 6, 15] ∧ (0 : Int) ≤ 0 := by decide
theorem witness_DecoderShiftsAndMasks : (4096 : Int) ≤ 4096 := by decide
/-- Each clause at the ends of its range of words. -/
theorem witness_OpcodeMap : opcodeField 256 = 1 ∧ opcodeField 511 = 1 ∧ opcodeField 512 = 2 ∧ opcodeField 1023 = 3 ∧
    opcodeField 1024 = 4 ∧ opcodeField 1535 = 5 ∧ opcodeField 1536 = 6 ∧ opcodeField 255 = 0 ∧ opcodeField 1792 = 7 ∧
    opcodeField 2048 = 8 ∧ opcodeField 2304 = 9 ∧ opcodeField 2560 = 10 ∧ opcodeField 2816 = 11 ∧ opcodeField 3072 = 12 ∧
    opcodeField 3328 = 13 ∧ opcodeField 3839 = 14 ∧ opcodeField (-1) < 0 ∧ 16 ≤ opcodeField 4096 ∧
    ((3841 : Int) ≤ 3841 ∧ (4095 : Int) ≤ 4095) ∧ opcodeField 0 ∉ [1, 2, 3, 4, 5, 6] ∧ (0 : Int) ≠ 3840 := by decide
theorem witness_SentinelIsOneWord : opcodeField 3841 = 15 ∧ opcodeField 4095 = 15 ∧ (3841 : Int) ≠ 3840 := by decide
theorem witness_SentinelIsOneWord_step : ∃ t t', Fetches (running 1 false (.int 0) (.int 0) [(0, .int 3840)]) 0 3840 ∧
    step (running 1 false (.int 0) (.int 0) [(0, .int 3840)]) = .next t ∧
    Fetches (running 1 false (.int 0) (.int 0) [(0, .int 3841)]) 0 3841 ∧
    step (running 1 false (.int 0) (.int 0) [(0, .int 3841)]) = .next t' :=
  ⟨_, _, fetches_of (by decide), rfl, fetches_of (by decide), rfl⟩
theorem witness_AddressFieldUse_used : ∃ t, opcodeField 1279 ∈ [1, 2, 3, 4] ∧
    Unfaulted (running 256 true (.int 0) (.int 0) []).cfg (1279 % 256) ∧
    exec (decodeWord 1279) (running 256 true (.int 0) (.int 0) []) = .next t :=
  ⟨_, by decide, .inr (by decide), rfl⟩
theorem witness_AddressFieldUse_ignored : opcodeField 1280 = opcodeField 1535 ∧ opcodeField 1280 ∉ [1, 2, 3, 4] ∧
    opcodeField 3841 = opcodeField 4095 ∧ opcodeField 3841 ∉ [1, 2, 3, 4] ∧ (3841 : Int) ≠ 3840 := by decide

/-- The operand clauses of LOAD, STORE, ADD and SUBTRACT meet at cell 200 of 200: 199 inside, 200 outside. -/
theorem witness_LoadResult : (199#8 : Address).toNat < 200 ∧ 200 ≤ (200#8 : Address).toNat ∧
    (running 200 false (.int 0) (.int 0) []).cfg.errorLogging = false ∧
    (running 200 true (.int 0) (.int 0) []).cfg.errorLogging = true ∧
    (running 200 true (.int 0) (.int 0) []).cfg.memorySize = 200 := by decide
theorem witness_StoreResult : let s := running 1 false (.int 0) (.int 9) []
    let s' := running 1 true (.int 0) (.int 9) []
    (0#8 : Address).toNat < s.cfg.memorySize ∧ s.cfg.memorySize ≤ (1#8 : Address).toNat ∧ s.cfg.errorLogging = false ∧
      s'.cfg.memorySize ≤ (1#8 : Address).toNat ∧ s'.cfg.errorLogging = true := by decide
theorem witness_AddResult : let s := running 255 false (.int 0) .invalid []
    let s' := running 255 true (.int 0) .invalid []
    (254#8 : Address).toNat < s.cfg.memorySize ∧ s.cfg.memorySize ≤ (255#8 : Address).toNat ∧ s.cfg.errorLogging = false ∧
      s'.cfg.memorySize ≤ (255#8 : Address).toNat ∧ s'.cfg.errorLogging = true := by decide
theorem witness_SubtractResult : let s := running 8 false (.int 0) (.int 3) []
    let s' := running 8 true (.int 0) (.int 3) []
    (7#8 : Address).toNat < s.cfg.memorySize ∧ s.cfg.memorySize ≤ (8#8 : Address).toNat ∧ s.cfg.errorLogging = false ∧
      s'.cfg.memorySize ≤ (8#8 : Address).toNat ∧ s'.cfg.errorLogging = true := by decide
/-- A cycle that gets as far as running each of the four. -/
theorem witness_operand_reached : Fetches (running 4096 true (.int 0) (.int 0) [(0, .int 511)]) 0 511 ∧
    decodeWord 511 = .load 255#8 ∧ Fetches (running 767 true (.int 0) (.int 0) [(0, .int 766)]) 0 766 ∧
    decodeWord 766 = .store 254#8 ∧ Fetches (running 4096 true (.int 0) (.int 0) [(0, .int 779)]) 0 779 ∧
    decodeWord 779 = .add 11#8 ∧ Fetches (running 1 false (.int 0) (.int 0) [(0, .int 1279)]) 0 1279 ∧
    decodeWord 1279 = .subtract 255#8 :=
  ⟨fetches_of (by decide), by decide, fetches_of (by decide), by decide, fetches_of (by decide), by decide,
    fetches_of (by decide), by decide⟩
theorem witness_InputResult : ((1280 : Int) ≤ 1280 ∧ (1535 : Int) ≤ 1535) ∧ (replying true [] []).replies = [] ∧
    (replying true [.int (-5)] []).replies = [.int (-5)] ∧ (replying true [.int (-5)] []).rs = .running ∧
    (replying false [.unparseable, .int 1] []).replies = [.unparseable, .int 1] ∧
    (replying false [.unparseable, .int 1] []).cfg.errorLogging = false ∧
    (replying true [.unparseable] []).replies = [.unparseable] ∧ (replying true [.unparseable] []).cfg.errorLogging = true := by
  decide
theorem witness_OutputResult : let s := running 4096 true (.int 0) (.int 4095) []
    let s' := running 4096 true (.int 0) (.int 4096) []
    ((1536 : Int) ≤ 1536 ∧ (1791 : Int) ≤ 1791) ∧ (s.ac = .int 4095 ∧ (0 : Int) ≤ 4095 ∧ (4095 : Int) < (s.cfg.memorySize : Int)) ∧
      (s'.ac = .int 4096 ∧ s'.cfg.errorLogging = true ∧ (s'.cfg.memorySize : Int) ≤ 4096) ∧
      ((running 1 false (.int 0) (.int (-1)) []).cfg.errorLogging = false ∧
        (running 1 false (.int 0) (.int (-1)) []).ac = .int (-1)) ∧
      (running 1 false (.int 0) .invalid []).ac = .invalid := by decide

/-- The sentinel in the last cell of a store in which it passes the decode check, and in one in which it does not. -/
theorem witness_HaltResult_fetches : Fetches (running 3841 true (.int 3840) (.int 0) [(3840, .int 3840)]) 3840 3840 :=
  fetches_of (by decide)
theorem witness_HaltResult_fault : let s := running 3840 true (.int 3839) (.int 0) [(3839, .int 3840)]
    s.rs = .running ∧ s.inputPending = false ∧ s.pc = .int 3839 ∧ (0 : Int) ≤ 3839 ∧ (3839 : Int) < (s.cfg.memorySize : Int) ∧
      Memory.read s.mem (3839 : Int).toNat = .int 3840 ∧ s.cfg.errorLogging = true ∧ s.cfg.memorySize ≤ 3840 := by decide
theorem witness_OpcodeFifteenNoOp_fetches : (3841 : Int) ≤ 4095 ∧ (4095 : Int) ≤ 4095 ∧
    Fetches (running 4096 true (.int 0) (.int 0) [(0, .int 4095)]) 0 4095 ∧
    Fetches (running 4096 true (.int 0) (.int 0) [(0, .int 3841)]) 0 3841 :=
  ⟨by decide, by decide, fetches_of (by decide), fetches_of (by decide)⟩
theorem witness_OpcodeFifteenNoOp_fault : let s := running 3841 true (.int 0) (.int 0) [(0, .int 3841)]
    s.rs = .running ∧ s.inputPending = false ∧ s.pc = .int 0 ∧ (0 : Int) ≤ 0 ∧ (0 : Int) < (s.cfg.memorySize : Int) ∧
      Memory.read s.mem (0 : Int).toNat = .int 3841 ∧ (3841 : Int) ≤ 3841 ∧ (3841 : Int) ≤ 4095 ∧ s.cfg.errorLogging = true ∧
      (s.cfg.memorySize : Int) ≤ 3841 := by decide
theorem witness_UnknownOpcodeNoOp_fetches : opcodeField (-1) ∉ [1, 2, 3, 4, 5, 6, 15] ∧ opcodeField 4096 ∉ [1, 2, 3, 4, 5, 6, 15] ∧
    Fetches (running 4096 false (.int 0) (.int 0) [(0, .int (-1))]) 0 (-1) ∧
    Fetches (running 4097 true (.int 0) (.int 0) [(0, .int 4096)]) 0 4096 ∧
    Instr.unknownWide 16 0#8 ∈ [Instr.unknown0 0#8, .unknownWide 16 0#8] :=
  ⟨by decide, by decide, fetches_of (by decide), fetches_of (by decide), by decide⟩
theorem witness_UnknownOpcodeNoOp_range : let s := running 4096 true (.int 4095) (.int 0) [(4095, .int 4096)]
    s.rs = .running ∧ s.inputPending = false ∧ s.pc = .int 4095 ∧ (0 : Int) ≤ 4095 ∧ (4095 : Int) < (s.cfg.memorySize : Int) ∧
      Memory.read s.mem (4095 : Int).toNat = .int 4096 ∧ opcodeField 4096 ∉ [1, 2, 3, 4, 5, 6, 15] ∧ s.cfg.errorLogging = true ∧
      (s.cfg.memorySize : Int) ≤ 4096 := by decide
theorem witness_UnknownOpcodeNoOp_invalid : let s := running 1 true (.int 0) (.int 0) [(0, .invalid)]
    s.rs = .running ∧ s.inputPending = false ∧ s.pc = .int 0 ∧ Unfaulted s.cfg 0 ∧ readCell 0 s = .invalid :=
  ⟨rfl, rfl, rfl, .inr (by decide), by decide⟩

/-- A next state of each framed instruction, completed and (where it can) faulted. -/
theorem witness_FrameLoadAddSubtract :
    (∃ t, exec (.load 0#8) (running 1 true (.int 0) (.int 0) []) = .next t) ∧
    (∃ t, exec (.add 1#8) (running 1 true (.int 0) (.int 0) []) = .next t ∧ t.rs = .faulted) ∧
    (∃ t, exec (.subtract 0#8) (running 1 true (.int 0) .invalid []) = .next t) :=
  ⟨⟨_, rfl⟩, ⟨_, rfl, rfl⟩, ⟨_, rfl⟩⟩
theorem witness_FrameStore : (∃ t, exec (.store 0#8) (running 1 true (.int 0) (.int 5) []) = .next t) ∧
    (∃ t, exec (.store 1#8) (running 1 true (.int 0) (.int 5) []) = .next t ∧ t.rs = .faulted) :=
  ⟨⟨_, rfl⟩, ⟨_, rfl, rfl⟩⟩
theorem witness_FrameInputOutput : (∃ t, exec (.input 0#8) (replying true [.int 3] []) = .next t) ∧
    (∃ t, exec (.input 0#8) (replying true [] []) = .next t ∧ t.inputPending = true) ∧
    (∃ t, exec (.output 255#8) (running 1 true (.int 0) (.int 0) []) = .next t) ∧
    (∃ t, exec (.output 0#8) (running 1 true (.int 0) (.int 1) []) = .next t ∧ t.rs = .faulted) :=
  ⟨⟨_, rfl⟩, ⟨_, rfl, rfl⟩, ⟨_, rfl⟩, ⟨_, rfl, rfl⟩⟩
theorem witness_FrameControlWords : Instr.halt.opcode ∉ [1, 2, 3, 4, 5, 6] ∧ (Instr.unknown14 1#8).opcode ∉ [1, 2, 3, 4, 5, 6] ∧
    (∃ t, exec .halt (running 1 true (.int 0) (.int 0) []) = .next t) ∧
    (∃ t, exec (.unknown14 1#8) (running 1 true (.int 0) (.int 0) []) = .next t) :=
  ⟨by decide, by decide, ⟨_, rfl⟩, ⟨_, rfl⟩⟩

/-- L1.2's program: STORE 20, LOAD 20. -/
theorem witness_StoreThenLoad : ∃ s1, (20#8 : Address).toNat < 4096 ∧
    Fetches (running 4096 true (.int 0) (.int 77) [(0, .int 532), (1, .int 276)]) 0 532 ∧ decodeWord 532 = .store 20#8 ∧
    step (running 4096 true (.int 0) (.int 77) [(0, .int 532), (1, .int 276)]) = .next s1 ∧ Fetches s1 1 276 ∧
    decodeWord 276 = .load 20#8 :=
  ⟨_, by decide, fetches_of (by decide), by decide, rfl, fetches_of (by decide), by decide⟩
theorem witness_StoreThenLoad_refused : Fetches (running 250 false (.int 0) (.int 77) [(0, .int 762)]) 0 762 ∧
    decodeWord 762 = .store 250#8 ∧ (running 250 false (.int 0) (.int 77) []).cfg.memorySize ≤ (250#8 : Address).toNat ∧
    (running 250 false (.int 0) (.int 77) []).cfg.errorLogging = false :=
  ⟨fetches_of (by decide), by decide, by decide, rfl⟩
/-- ADD 11, SUBTRACT 11, with integers and with `Invalid`. -/
theorem witness_AddThenSubtract_int : ∃ s1, (11#8 : Address).toNat < 4096 ∧
    Fetches (running 4096 true (.int 0) (.int 5) [(0, .int 779), (1, .int 1035), (11, .int 7)]) 0 779 ∧
    decodeWord 779 = .add 11#8 ∧
    step (running 4096 true (.int 0) (.int 5) [(0, .int 779), (1, .int 1035), (11, .int 7)]) = .next s1 ∧
    Fetches s1 1 1035 ∧ decodeWord 1035 = .subtract 11#8 :=
  ⟨_, by decide, fetches_of (by decide), by decide, rfl, fetches_of (by decide), by decide⟩
theorem witness_AddThenSubtract_invalid : ∃ s1,
    Fetches (running 4096 true (.int 0) (.int 5) [(0, .int 779), (1, .int 1035), (11, .invalid)]) 0 779 ∧
    step (running 4096 true (.int 0) (.int 5) [(0, .int 779), (1, .int 1035), (11, .invalid)]) = .next s1 ∧
    Fetches s1 1 1035 ∧ Memory.read [(0, .int 779), (1, .int 1035), (11, .invalid)] (11#8 : Address).toNat = .invalid :=
  ⟨_, fetches_of (by decide), rfl, fetches_of (by decide), by decide⟩
/-- LS12: STORE 6 at 5, with the sentinel in `AC`. -/
theorem witness_StoreIsSeenByNextFetch : ∃ t,
    Fetches (running 4096 true (.int 5) (.int 3840) [(5, .int 518)]) 5 518 ∧ decodeWord 518 = .store 6#8 ∧
    step (running 4096 true (.int 5) (.int 3840) [(5, .int 518)]) = .next t ∧ Address.index 6#8 = 5 + 1 ∧
    Unfaulted (running 4096 true (.int 5) (.int 3840) [(5, .int 518)]).cfg 3840 :=
  ⟨_, fetches_of (by decide), by decide, rfl, by decide, .inr (by decide)⟩

theorem witness_StepRunsDecoded : Fetches (running 4096 true (.int 4095) (.int 0) [(4095, .int 266)]) 4095 266 ∧
    inStore (running 4096 true (.int 4095) (.int 0) [(4095, .int 266)]).cfg 4095 = true :=
  ⟨fetches_of (by decide), by decide⟩
theorem witness_FetchFault_invalid : ∃ t, let s := running 4096 false .invalid (.int 0) []
    (s.rs = .running ∧ s.inputPending = false ∧ s.pc = .invalid) ∧ step s = .next t ∧
      (∃ k o, t.events.getLast? = some (.diag (.afFetch k) o)) ∧ s.events ≠ t.events :=
  ⟨_, by decide, rfl, ⟨_, _, rfl⟩, by decide⟩
theorem witness_FetchFault_range : let s := running 4096 true (.int 4096) (.int 0) []
    s.rs = .running ∧ s.inputPending = false ∧ s.pc = .int 4096 ∧ s.cfg.errorLogging = true ∧ (s.cfg.memorySize : Int) ≤ 4096 ∧
      (running 4096 true (.int (-1)) (.int 0) []).pc = .int (-1) ∧ (-1 : Int) < 0 := by decide
theorem witness_DecodeFault_invalid : let s := running 4096 false (.int 0) (.int 0) [(0, .invalid)]
    s.rs = .running ∧ s.inputPending = false ∧ s.pc = .int 0 ∧ Unfaulted s.cfg 0 ∧ readCell 0 s = .invalid :=
  ⟨rfl, rfl, rfl, .inl rfl, by decide⟩
theorem witness_DecodeFault_range : let s := running 256 true (.int 255) (.int 0) [(255, .int 256)]
    s.rs = .running ∧ s.inputPending = false ∧ s.pc = .int 255 ∧ Unfaulted s.cfg 255 ∧ readCell 255 s = .int 256 ∧
      s.cfg.errorLogging = true ∧ (s.cfg.memorySize : Int) ≤ 256 :=
  ⟨rfl, rfl, rfl, .inr (by decide), by decide, rfl, by decide⟩

/-- A step of a run: one that completes, one that waits, one that faults. -/
theorem witness_PcMovesByOneOrStays : (∃ t, step (running 4096 true (.int 0) (.int 0) []) = .next t ∧ t.rs = .running) ∧
    (∃ t, step (waiting true []) = .next t ∧ t.inputPending = true ∧ (waiting true []).rs = .running) ∧
    (∃ t, step (running 4096 true .invalid (.int 0) []) = .next t ∧ t.rs = .faulted) :=
  ⟨⟨_, rfl, rfl⟩, ⟨_, rfl, rfl, rfl⟩, ⟨_, rfl, rfl⟩⟩
theorem witness_HaltsOnTheSentinelAlone : (∃ t, step (running 4096 true (.int 0) (.int 0) [(0, .int 3840)]) = .next t ∧
      t.rs = .halted ∧ Fetches (running 4096 true (.int 0) (.int 0) [(0, .int 3840)]) 0 3840) ∧
    (∃ t, step (running 4096 true (.int 0) (.int 0) [(0, .int 3841)]) = .next t ∧ t.rs ≠ .halted) :=
  ⟨⟨_, rfl, rfl, fetches_of (by decide)⟩, ⟨_, rfl, by decide⟩⟩

/-- A running state at the start of a cycle, with canonical cells inside the store, meets the invariant. -/
theorem running_inv {n : Nat} {el : Bool} {pc ac : Value} {cells : Memory} (hn : 1 ≤ n)
    (hc : Memory.WF cells) (hi : ∀ e ∈ cells, e.1 < n) : Machine.Inv (running n el pc ac cells) where
  canonical := hc
  inside := hi
  size := hn
  wait := fun h => (by cases h)
  ends := ⟨fun h => (by cases h), fun h => (by cases h), fun h => (by cases h)⟩
/-- Codes 1, 2 and 4, and code 5 at the end of a wait. -/
theorem witness_FaultIsPrecise :
    (∃ t, Machine.Inv (running 4096 true .invalid (.int 0) []) ∧ step (running 4096 true .invalid (.int 0) []) = .next t ∧
      t.rs = .faulted) ∧
    (∃ t, Machine.Inv (running 256 true (.int 0) (.int 0) [(0, .int 266)]) ∧
      step (running 256 true (.int 0) (.int 0) [(0, .int 266)]) = .next t ∧ t.rs = .faulted) ∧
    (∃ t, Machine.Inv (running 4096 true (.int 0) .invalid [(0, .int 1536)]) ∧
      step (running 4096 true (.int 0) .invalid [(0, .int 1536)]) = .next t ∧ t.rs = .faulted) :=
  ⟨⟨_, running_inv (by decide) (by decide) (by decide), rfl, rfl⟩,
    ⟨_, running_inv (by decide) (by decide) (by decide), rfl, rfl⟩,
    ⟨_, running_inv (by decide) (by decide) (by decide), rfl, rfl⟩⟩
theorem waiting_inv (el : Bool) (replies : List Reply) : Machine.Inv (waiting el replies) where
  canonical := (by decide : Memory.WF [(0, .int 1280)])
  inside := (by decide : ∀ e ∈ ([(0, .int 1280)] : Memory), e.1 < 4096)
  size := (by decide : 1 ≤ 4096)
  wait := fun _ => ⟨rfl, ⟨1280, rfl, by decide⟩, ⟨0, rfl, rfl⟩, rfl⟩
  ends := ⟨fun h => (by cases h), fun h => (by cases h), fun h => (by cases h)⟩
theorem witness_FaultIsPrecise_wait : ∃ t, Machine.Inv (waiting true [.unparseable]) ∧ (waiting true [.unparseable]).rs = .running ∧
    step (waiting true [.unparseable]) = .next t ∧ t.rs = .faulted :=
  ⟨_, waiting_inv _ _, rfl, rfl, rfl⟩
theorem witness_FaultIsPrecise_operand : ¬ Unfaulted (running 255 true (.int 0) (.int 0) []).cfg (Address.index 255#8) ∧
    ¬ Unfaulted (running 1 true (.int 0) (.int 0) []).cfg (Address.index 1#8) := by
  unfold Unfaulted
  decide
theorem witness_FaultedIsTerminal : (∃ t, step (resting 1 .faulted [] [.writeReg .pc (.int 0)]) = .next t ∧
      (resting 1 .faulted [] [.writeReg .pc (.int 0)]).rs = .faulted) ∧ (resting 1 .faulted [] [.run]).calls = [.run] ∧
    (resting 1 .faulted [] []).calls = [] :=
  ⟨⟨_, rfl, rfl⟩, rfl, rfl⟩
theorem witness_OnlyInvalidFaultsUnlogged : ∃ t, (running 4096 false (.int 0) .invalid [(0, .int 1536)]).cfg.errorLogging = false ∧
    step (running 4096 false (.int 0) .invalid [(0, .int 1536)]) = .next t ∧ t.rs = .faulted :=
  ⟨_, rfl, rfl, rfl⟩

/-- A run in progress, and a step that changes `MQ`. -/
theorem witness_MqIsUntouched : (running 1 true (.int 0) (.int 0) []).rs = .running ∧
    ∃ t, step (resting 1 .idle [] [.writeReg .mq .invalid]) = .next t ∧ t.mq ≠ (resting 1 .idle [] []).mq :=
  ⟨rfl, _, rfl, by decide⟩
theorem witness_MdrWriters : ∃ t, exec (.load 0#8) (running 1 true (.int 0) (.int 0) [(0, .int 5)]) = .next t ∧ t.mdr = .int 5 ∧
    Unfaulted (running 1 true (.int 0) (.int 0) [(0, .int 5)]).cfg (Address.index 0#8) :=
  ⟨_, rfl, by decide, .inr (by decide)⟩
theorem witness_MdrWriters_store : ∃ t, exec (.store 0#8) (running 1 true (.int 0) (.int 5) []) = .next t := ⟨_, rfl⟩
theorem witness_MarWriters : (∃ t, exec (.store 255#8) (running 256 true (.int 0) (.int 5) []) = .next t ∧
      Unfaulted (running 256 true (.int 0) (.int 5) []).cfg (Address.index 255#8)) ∧
    (∃ t, exec (.add 255#8) (running 255 true (.int 0) (.int 5) []) = .next t ∧
      ¬ Unfaulted (running 255 true (.int 0) (.int 5) []).cfg (Address.index 255#8)) ∧
    (∃ t, (Instr.input 0#8).opcode ∉ [1, 2, 3, 4] ∧ exec (.input 0#8) (replying true [] []) = .next t) :=
  ⟨⟨_, rfl, .inr (by decide)⟩, ⟨_, rfl, by unfold Unfaulted; decide⟩, ⟨_, by decide, rfl⟩⟩
theorem witness_ConfigurationIsFixed : ∃ t, step (running 1 true (.int 0) (.int 0) [(0, .int 5)]) = .next t ∧
    CellsInside (running 1 true (.int 0) (.int 0) [(0, .int 5)]) :=
  ⟨_, rfl, by unfold CellsInside; decide⟩
theorem witness_EventsOnlyAppend : ∃ t, step (running 4096 true (.int 0) (.int 0) [(0, .int 256)]) = .next t ∧
    t.events = [.trace (.load (.int 256))] := ⟨_, rfl, by decide⟩
theorem witness_SilentInTheTrace : ∃ t, (Instr.op15Nop 1#8).opcode ∉ [1, 2, 3, 4, 5, 6] ∧
    exec (.op15Nop 1#8) (running 4096 true (.int 0) (.int 0) []) = .next t := ⟨_, by decide, rfl⟩
theorem witness_LoggingOnlyTraces : (∃ t, step (running 4096 true (.int 0) (.int 0) [(0, .int 256)]) = .next t) ∧
    (∃ u, step ((running 4096 true (.int 0) (.int 0) [(0, .int 256)]).withLogging false) = .next u) ∧
    step (resting 1 .faulted [] [.run]) = .refused .runAfterFault :=
  ⟨⟨_, rfl⟩, ⟨_, rfl⟩, rfl⟩
theorem witness_DebugOnlyEmits : (∃ t, step ((running 4096 true (.int 0) (.int 0) []).withDebug true) = .next t ∧
      t.pc ≠ (running 4096 true (.int 0) (.int 0) []).pc) ∧
    (∃ t, step ((running 4096 true (.int 0) (.int 0) []).withDebug false) = .next t) ∧
    step (resting 1 .faulted [] [.run]) = .refused .runAfterFault :=
  ⟨⟨_, rfl, by decide⟩, ⟨_, rfl⟩, rfl⟩
theorem witness_ErrorLoggingOnlyFaults : ∃ t, step ((running 4096 false (.int 0) (.int 0) []).withErrorLogging true) = .next t ∧
    t.rs ≠ .faulted := ⟨_, rfl, by decide⟩

/-- Each of the four refusals happens. -/
theorem witness_StepRefusesInFourWays :
    step (running 200 false (.int 0) (.int 1) [(0, .int 762)]) = .refused (.outOfRangeWrite 250) ∧
    step (resting 2 .faulted [] [.run]) = .refused .runAfterFault ∧
    step (resting 2 .idle [] [.loadProgram (.sequence [.int 1, .int 2])]) = .refused .loadOverflow ∧
    step (resting 2 .halted [] [.writeCell 2 .invalid]) = .refused (.hostCellAbsent 2) :=
  ⟨rfl, rfl, rfl, rfl⟩
theorem witness_RunsNeverStop : (running 256 false (.int 0) (.int 0) []).rs = .running ∧
    256 ≤ (running 256 false (.int 0) (.int 0) []).cfg.memorySize ∧ (running 1 true (.int 0) (.int 0) []).cfg.errorLogging = true := by
  decide
theorem witness_OnlyInputWaits : (waiting true []).rs = .running ∧ (waiting true []).inputPending = true ∧
    (waiting true []).replies = [] ∧ nextOf (step (waiting true [])) = some (waiting true []) := by decide

theorem witness_RunEntry : let f := resting 1 .faulted [] [.run]
    let h := resting 1 .halted [.done] [.run]
    (f.rs = .faulted ∧ f.calls = [.run]) ∧ (h.rs = .halted ∧ h.calls = [.run]) ∧ (resting 1 .idle [] [.run]).rs = .idle ∧
      (nextOf (step { running 1 true (.int 0) (.int 0) [] with calls := [.run] })).isSome = true := by decide
/-- A load that just fits a store of two cells, and one that does not; witness_LoaderTypeFaultCall is the third clause's. -/
theorem witness_ProgramLoader : let s := resting 2 .idle [] [.loadProgram (.sequence [.int 1])]
    let s' := resting 2 .halted [] [.loadProgram (.sequence [.int 1, .int 2])]
    (s.rs ≠ .running ∧ s.calls = [.loadProgram (.sequence [.int 1])] ∧ [Value.int 1, .int 3840].length ≤ s.cfg.memorySize) ∧
      (s'.rs ≠ .running ∧ s'.calls = [.loadProgram (.sequence [.int 1, .int 2])] ∧
        s'.cfg.memorySize < [Value.int 1, .int 2, .int 3840].length) ∧
      ¬ Value.int 3840 ∈ [Value.int 1] ∧ Value.int 3840 ∈ [Value.int 1, .int 3840] := by decide
theorem witness_LoaderTypeFaultCall : let s := resting 2 .faulted [] [.loadProgram .notSequence]
    s.rs ≠ .running ∧ s.calls = [.loadProgram .notSequence] := by decide
theorem witness_HostWrites_reg : let s := fun r => resting 2 .idle [] [.writeReg r .invalid]
    (s .ac).rs ≠ .running ∧ (s .ac).calls = [.writeReg .ac .invalid] ∧ (s .mq).calls = [.writeReg .mq .invalid] ∧
      (s .pc).calls = [.writeReg .pc .invalid] ∧ (s .ir).calls = [.writeReg .ir .invalid] ∧
      (s .mar).calls = [.writeReg .mar .invalid] ∧ (s .mdr).calls = [.writeReg .mdr .invalid] := by decide
theorem witness_HostWrites_cell : let s := resting 2 .faulted [] [.writeCell 1 (.int 100000)]
    s.rs ≠ .running ∧ s.calls = [.writeCell 1 (.int 100000)] ∧ (0 : Int) ≤ 1 ∧ (1 : Int) < (s.cfg.memorySize : Int) := by decide
theorem witness_HostWrites_invalid : (∃ t, step (resting 2 .idle [] [.writeReg .pc .invalid]) = .next t ∧ t.pc = .invalid) ∧
    (∃ t, step (resting 2 .idle [] [.writeReg .mar .invalid]) = .next t ∧ t.mar = .invalid) ∧
    (∃ t, step (resting 2 .idle [] [.writeReg .mq .invalid]) = .next t ∧ t.mq = .invalid) :=
  ⟨⟨_, rfl, rfl⟩, ⟨_, rfl, rfl⟩, ⟨_, rfl, rfl⟩⟩
theorem witness_Construction_idle : ∃ t, step State.reset = .next t ∧ t.rs = .idle := ⟨_, rfl, rfl⟩
theorem witness_Construction : (0 : Int) < 1 ∧ (1 : Nat) ≤ 1 ∧
    refusalOf (construct ⟨some (.int 0), none, none, none, none⟩) = some .badMemorySize ∧
    refusalOf (construct ⟨some .invalid, none, none, none, none⟩) = some .badMemorySize ∧
    refusalOf (construct ⟨some (.int 1), none, none, none, some (.other ['x'])⟩) = some .badParseTo ∧
    (nextOf (construct ⟨some (.int 1), some true, none, none, some (.known .octal)⟩)).map State.cfg =
      some ⟨1, true, false, true, .octal⟩ := by decide
theorem witness_ResetValues : ∃ s, construct ⟨some (.int 1), some true, some true, some false, some (.known .binary)⟩ = .next s :=
  ⟨_, rfl⟩
theorem witness_InvAtReset : ∃ s, construct ⟨none, none, none, none, none⟩ = .next s := ⟨_, rfl⟩
theorem witness_StepKeepsInv : (∃ t, Machine.Inv (running 2 false (.int 0) (.int 9) [(0, .int 513)]) ∧
      step (running 2 false (.int 0) (.int 9) [(0, .int 513)]) = .next t ∧ t.mem = [(0, .int 513), (1, .int 9)]) ∧
    (∃ t, Machine.Inv (waiting true [.unparseable]) ∧ step (waiting true [.unparseable]) = .next t) :=
  ⟨⟨_, running_inv (by decide) (by decide) (by decide), rfl, by decide⟩, ⟨_, waiting_inv _ _, rfl⟩⟩
theorem witness_RunIsSequential : let s := running 4096 true (.int 0) (.int 0) []
    ∃ t, s.rs = .running ∧ s.calls = [] ∧ s.pc = .int 0 ∧ Host.Core.run core 2 s = .next t ∧ t.rs = .running ∧
      t.inputPending = false :=
  ⟨_, rfl, rfl, rfl, rfl, rfl, rfl⟩
/-- A run begun with a request pending and a reply queued: the step that ends INPUT's wait. -/
theorem witness_RunIsSequential_replies : ∃ t, (waiting true [.int 3]).rs = .running ∧ (waiting true [.int 3]).calls = [] ∧
    (waiting true [.int 3]).pc = .int 0 ∧ Host.Core.run core 1 (waiting true [.int 3]) = .next t ∧ t.rs = .running ∧
    t.inputPending = false ∧ t.pc = .int 1 :=
  ⟨_, rfl, rfl, rfl, rfl, by simp [acceptReply, waiting, replying, running], by simp [acceptReply],
    by simp [acceptReply, waiting, replying, running, nextPc]⟩
/-- CY6: one zero cell before the halt word, and the last cell of the store as the halt word's. -/
theorem witness_ZeroCellsRunToTheHalt : let s := running 2 false (.int 0) (.int 4) [(1, .int 3840)]
    s.rs = .running ∧ s.inputPending = false ∧ s.pc = .int (0 : Nat) ∧ 0 + 1 < s.cfg.memorySize ∧ s.cfg.errorLogging = false ∧
      (∀ n, 0 ≤ n → n < 0 + 1 → Memory.read s.mem n = .int 0) ∧ Memory.read s.mem (0 + 1) = .int 3840 :=
  ⟨rfl, rfl, rfl, by decide, rfl, fun n _ h => by interval_cases n; decide, by decide⟩

end Sys2Proof.Tests
end

section
/-!
SUPPORT. A relabelling of the configuration and of the event history commutes with a step, but for the checks that `errorLogging`
decides. The options `logging` and `errorLogging` (00_scope.md R8) are then each one relabelling.
-/

namespace Sys2Proof.Machine

/-! The relabelled state. -/

/-- The configuration changed by `g`, the event history by `d`, and nothing else. -/
def State.relabel (g : Configuration → Configuration) (d : List Event → List Event) (s : State) : State :=
  { s with cfg := g s.cfg, events := d s.events }

/-- The relabelling keeps what the machine computes with (the size of the Word Store, the base of the formatter), and each event
appended after it is the event appended before it, with the trace and debug events shown as the new configuration shows them. -/
structure Relabelling (g : Configuration → Configuration) (d : List Event → List Event) : Prop where
  memorySize : ∀ c, (g c).memorySize = c.memorySize
  parseTo : ∀ c, (g c).parseTo = c.parseTo
  emit : ∀ l e, e.entry = none → (∀ v, e ≠ .debug v) → d (l ++ [e]) = d l ++ [e]
  trace : ∀ c l e, d (l ++ tracesShown c [e]) = d l ++ tracesShown (g c) [e]
  debug : ∀ c l v, d (l ++ debugShown c v) = d l ++ debugShown (g c) v

/-- The outcome is a reported fault taken as a next state (60_exceptions.md R121). -/
def TakesFault (r : Host.Outcome State Fault Refusal) : Prop := ∃ t, r = .next t ∧ t.rs = .faulted

/-- The relabelled machine makes the same checks on the way to `r`: `errorLogging` is kept, or it is off and `r` is no fault. -/
def SameChecks (g : Configuration → Configuration) (s : State) (r : Host.Outcome State Fault Refusal) : Prop :=
  (g s.cfg).errorLogging = s.cfg.errorLogging ∨ ((g s.cfg).errorLogging = false ∧ ¬ TakesFault r)

theorem takesFault_raiseFault (f : Fault) (o : Offender) (s : State) : TakesFault (.next (raiseFault f o s)) := ⟨_, rfl, rfl⟩

theorem mapNext_eq_next {f : State → State} {r} {u : State} (h : mapNext f r = .next u) : ∃ t, r = .next t ∧ f t = u := by
  cases r with
  | next t => exact ⟨t, rfl, by simpa [mapNext] using h⟩
  | fault _ | refused _ => simp [mapNext] at h

theorem mapNext_eq_refused {f : State → State} {r} {e : Refusal} (h : mapNext f r = .refused e) : r = .refused e := by
  cases r with
  | refused _ => simpa [mapNext] using h
  | next _ | fault _ => simp [mapNext] at h

section
variable {g : Configuration → Configuration} {d : List Event → List Event}

@[simp] theorem State.relabel_ac (s : State) : (s.relabel g d).ac = s.ac := rfl
@[simp] theorem State.relabel_mq (s : State) : (s.relabel g d).mq = s.mq := rfl
@[simp] theorem State.relabel_pc (s : State) : (s.relabel g d).pc = s.pc := rfl
@[simp] theorem State.relabel_ir (s : State) : (s.relabel g d).ir = s.ir := rfl
@[simp] theorem State.relabel_mar (s : State) : (s.relabel g d).mar = s.mar := rfl
@[simp] theorem State.relabel_mdr (s : State) : (s.relabel g d).mdr = s.mdr := rfl
@[simp] theorem State.relabel_mem (s : State) : (s.relabel g d).mem = s.mem := rfl
@[simp] theorem State.relabel_rs (s : State) : (s.relabel g d).rs = s.rs := rfl
@[simp] theorem State.relabel_cfg (s : State) : (s.relabel g d).cfg = g s.cfg := rfl
@[simp] theorem State.relabel_events (s : State) : (s.relabel g d).events = d s.events := rfl
@[simp] theorem State.relabel_inputPending (s : State) : (s.relabel g d).inputPending = s.inputPending := rfl
@[simp] theorem State.relabel_replies (s : State) : (s.relabel g d).replies = s.replies := rfl
@[simp] theorem State.relabel_calls (s : State) : (s.relabel g d).calls = s.calls := rfl
@[simp] theorem State.relabel_loadAnswers (s : State) : (s.relabel g d).loadAnswers = s.loadAnswers := rfl
@[simp] theorem State.relabel_draws (s : State) : (s.relabel g d).draws = s.draws := rfl

/-! The shared operations commute with a relabelling. -/

@[simp] theorem State.relabel_setAc (v : Value) (s : State) : (s.setAc v).relabel g d = (s.relabel g d).setAc v := rfl
@[simp] theorem State.relabel_setMar (v : Value) (s : State) : (s.setMar v).relabel g d = (s.relabel g d).setMar v := rfl
@[simp] theorem State.relabel_setMem (m : Memory) (s : State) : (s.setMem m).relabel g d = (s.relabel g d).setMem m := rfl
@[simp] theorem State.relabel_drawInputFaultAc (s : State) :
    (drawInputFaultAc s).relabel g d = drawInputFaultAc (s.relabel g d) := rfl

variable (h : Relabelling g d)
include h

theorem Relabelling.emit_relabel (e : Event) (he : e.entry = none) (hd : ∀ v, e ≠ .debug v) (s : State) :
    (s.emit e).relabel g d = (s.relabel g d).emit e := by
  apply State.ext <;> simp [h.emit _ e he hd]

theorem Relabelling.raiseFault_relabel (f : Fault) (o : Offender) (s : State) :
    (raiseFault f o s).relabel g d = raiseFault f o (s.relabel g d) :=
  congrArg (State.setRs .faulted) (h.emit_relabel (.diag f o) rfl nofun s)

theorem Relabelling.haltRun_relabel (s : State) : (haltRun s).relabel g d = haltRun (s.relabel g d) :=
  h.emit_relabel .done rfl nofun (s.setRs .halted)

theorem Relabelling.traceEntry_relabel (e : TraceEntry) (s : State) :
    (traceEntry e s).relabel g d = traceEntry e (s.relabel g d) := by
  apply State.ext <;> simp [h.trace]

theorem Relabelling.traceInputEntry_relabel (s : State) :
    (traceInputEntry s).relabel g d = traceInputEntry (s.relabel g d) := by
  unfold traceInputEntry
  split
  · exact h.traceEntry_relabel _ s
  · rfl

theorem Relabelling.advance_relabel (s : State) : (advance s).relabel g d = advance (s.relabel g d) := by
  apply State.ext <;> simp [h.debug]

theorem Relabelling.inStore_relabel (c : Configuration) (z : Int) : inStore (g c) z = inStore c z := by
  simp [inStore, h.memorySize]

theorem Relabelling.readCell_relabel (z : Int) (s : State) : readCell z (s.relabel g d) = readCell z s := by
  simp [readCell, h.inStore_relabel]

theorem Relabelling.afterRead_relabel (z : Int) (s : State) : (afterRead z s).relabel g d = afterRead z (s.relabel g d) := by
  apply State.ext <;> simp [afterRead_draws, h.inStore_relabel]

theorem Relabelling.readToMdr_relabel (z : Int) (s : State) : (readToMdr z s).relabel g d = readToMdr z (s.relabel g d) := by
  unfold readToMdr
  rw [h.readCell_relabel, ← h.afterRead_relabel]
  rfl

theorem Relabelling.fetch_relabel (p : Int) (s : State) : (fetch p s).relabel g d = fetch p (s.relabel g d) := by
  unfold fetch
  rw [← State.relabel_setMar, h.readCell_relabel, ← h.afterRead_relabel]
  rfl

/-! The checks. -/

/-- A check answers the same, if failing it means taking a fault. -/
theorem Relabelling.check_relabel {s : State} {v : Value} {r} (hr : SameChecks g s r)
    (hf : ∀ k, check s.cfg v = .fault k → TakesFault r) : check (g s.cfg) v = check s.cfg v := by
  rcases hr with he | ⟨hoff, hno⟩
  · cases v <;> simp [check, he, h.inStore_relabel]
  · cases hc : check s.cfg v with
    | fault k => exact absurd (hf k hc) hno
    | pass z =>
      obtain ⟨rfl, -⟩ := check_eq_pass.1 hc
      exact check_pass_of (.inl hoff)

theorem Relabelling.withOperand_relabel {a : Address} {s : State} {k : Int → State → Host.Outcome State Fault Refusal}
    (hr : SameChecks g s (withOperand a s k))
    (hk : ∀ z t, k z (t.relabel g d) = mapNext (State.relabel g d) (k z t)) :
    withOperand a (s.relabel g d) k = mapNext (State.relabel g d) (withOperand a s k) := by
  have hc := h.check_relabel (v := .int a.index) hr fun k hk => by
    simp only [withOperand, hk]
    exact takesFault_raiseFault _ _ _
  unfold withOperand
  rw [State.relabel_cfg, hc]
  cases check s.cfg (.int a.index) with
  | fault kind => simp [mapNext, h.raiseFault_relabel]
  | pass z => exact hk z (s.setMar (.int z))

theorem Relabelling.memWrite_relabel {z : Int} {v : Value} {s : State} {k : State → Host.Outcome State Fault Refusal}
    (hk : ∀ t, k (t.relabel g d) = mapNext (State.relabel g d) (k t)) :
    memWrite z v (s.relabel g d) k = mapNext (State.relabel g d) (memWrite z v s k) := by
  unfold memWrite
  rw [State.relabel_cfg, h.inStore_relabel]
  split
  · exact hk (s.setMem (Memory.write s.mem z.toNat v))
  · rfl

/-! INPUT's wait and the host's calls. -/

theorem Relabelling.acceptReply_relabel {r : Reply} {s : State} (hr : SameChecks g s (.next (acceptReply r s))) :
    acceptReply r (s.relabel g d) = (acceptReply r s).relabel g d := by
  have completes (v : Value) : advance (traceInputEntry (((s.relabel g d).emit (.inputReply r)).setAc v)) =
      (advance (traceInputEntry ((s.emit (.inputReply r)).setAc v))).relabel g d := by
    rw [h.advance_relabel, h.traceInputEntry_relabel, State.relabel_setAc, h.emit_relabel (.inputReply r) rfl nofun]
  cases r with
  | int z => exact completes (.int z)
  | unparseable =>
    have he : (g s.cfg).errorLogging = s.cfg.errorLogging := by
      rcases hr with he | ⟨hoff, hno⟩
      · exact he
      · cases hs : s.cfg.errorLogging with
        | false => exact hoff
        | true =>
          refine absurd ?_ hno
          simp only [acceptReply, hs, if_true]
          exact takesFault_raiseFault _ _ _
    simp only [acceptReply, State.relabel_cfg, he]
    split
    · rw [h.raiseFault_relabel, State.relabel_drawInputFaultAc, h.emit_relabel (.inputReply .unparseable) rfl nofun]
    · exact completes .invalid

theorem Relabelling.awaitReply_relabel {s : State} (hr : SameChecks g s (awaitReply s)) :
    awaitReply (s.relabel g d) = mapNext (State.relabel g d) (awaitReply s) := by
  unfold awaitReply at hr ⊢
  rw [State.relabel_replies]
  cases hq : s.replies with
  | nil => rfl
  | cons r rest =>
    rw [hq] at hr
    exact congrArg _ (h.acceptReply_relabel (s := (s.setReplies rest).setPending false) hr)

theorem Relabelling.performCall_relabel (c : HostCall) (s : State) :
    performCall c (s.relabel g d) = mapNext (State.relabel g d) (performCall c s) := by
  cases c with
  | loadProgram arg =>
    cases arg with
    | notSequence => rfl
    | sequence p =>
      simp only [performCall, loadCall, loadProgram, State.relabel_cfg, h.memorySize]
      by_cases hl : (amendProgram p).length ≤ s.cfg.memorySize <;> simp only [hl, if_true, if_false] <;> rfl
  | writeReg r v => cases r <;> rfl
  | writeCell i v =>
    simp only [performCall, hostWriteCell, State.relabel_cfg, h.inStore_relabel]
    split <;> rfl
  | run =>
    simp only [performCall, runEntry, State.relabel_rs]
    by_cases hf : s.rs = .faulted <;> simp only [hf, if_true, if_false] <;> rfl

/-! The instructions, the cycle and the step. -/

theorem Relabelling.exec_relabel {i : Instr} {s : State} (hr : SameChecks g s (exec i s)) :
    exec i (s.relabel g d) = mapNext (State.relabel g d) (exec i s) := by
  cases i with
  | load a | add a | subtract a =>
    simp only [exec, execLoad, execAdd, execSubtract] at hr ⊢
    apply h.withOperand_relabel hr
    intro z t
    simp [mapNext, h.advance_relabel, h.traceEntry_relabel, h.readToMdr_relabel, h.readCell_relabel]
  | store a =>
    simp only [exec, execStore] at hr ⊢
    apply h.withOperand_relabel hr
    intro z t
    apply h.memWrite_relabel
    intro t
    simp [mapNext, h.advance_relabel, h.traceEntry_relabel]
  | input x =>
    rw [exec_input] at hr ⊢
    rw [exec_input, ← h.emit_relabel .inputRequest rfl nofun]
    exact h.awaitReply_relabel (s := (s.emit .inputRequest).setPending true) hr
  | output x =>
    have hc := h.check_relabel (v := s.ac) hr fun k hk => by
      simp only [exec, execOutput, hk]
      exact takesFault_raiseFault _ _ _
    simp only [exec, execOutput, State.relabel_cfg, State.relabel_ac, hc, h.parseTo]
    cases check s.cfg s.ac with
    | fault kind => simp [mapNext, h.raiseFault_relabel]
    | pass z => simp [mapNext, h.advance_relabel, h.traceEntry_relabel]
  | halt => simp [exec_halt, mapNext, h.haltRun_relabel, h.advance_relabel]
  | op15Nop | unknown0 | unknown7 | unknown8 | unknown9 | unknown10 | unknown11 | unknown12 | unknown13 | unknown14 |
    unknownWide =>
    rw [exec_noOp (by trivial), exec_noOp (by trivial)]
    exact congrArg _ (h.advance_relabel s).symm

theorem Relabelling.decodeAndExecute_relabel {s : State} (hr : SameChecks g s (decodeAndExecute s)) :
    decodeAndExecute (s.relabel g d) = mapNext (State.relabel g d) (decodeAndExecute s) := by
  have hir := h.check_relabel (v := s.ir) hr fun k hk => by
    simp only [decodeAndExecute, hk]
    exact takesFault_raiseFault _ _ _
  unfold decodeAndExecute at hr ⊢
  rw [State.relabel_cfg, State.relabel_ir, hir]
  cases hw : check s.cfg s.ir with
  | fault kind => simp [mapNext, h.raiseFault_relabel]
  | pass w =>
    rw [hw] at hr
    exact h.exec_relabel hr

theorem Relabelling.cycle_relabel {s : State} (hr : SameChecks g s (cycle s)) :
    cycle (s.relabel g d) = mapNext (State.relabel g d) (cycle s) := by
  have hpc := h.check_relabel (v := s.pc) hr fun k hk => by
    simp only [cycle, hk]
    exact takesFault_raiseFault _ _ _
  unfold cycle at hr ⊢
  rw [State.relabel_cfg, State.relabel_pc, hpc]
  cases hp : check s.cfg s.pc with
  | fault kind => simp [mapNext, h.raiseFault_relabel]
  | pass p =>
    have hr : SameChecks g (fetch p s) (decodeAndExecute (fetch p s)) := by simpa [hp, SameChecks] using hr
    simpa [h.fetch_relabel] using h.decodeAndExecute_relabel hr

/-- A step commutes with a relabelling that makes the same checks. -/
theorem Relabelling.step_relabel {s : State} (hr : SameChecks g s (step s)) :
    step (s.relabel g d) = mapNext (State.relabel g d) (step s) := by
  rcases step_cases (s := s) rfl with ⟨hn, hc, hs⟩ | ⟨c, rest, hn, hc, hs⟩ | ⟨hrun, hp, hs⟩ | ⟨hrun, hp, hs⟩ <;>
    rw [hs] at hr ⊢
  · rw [step_resting (by simpa using hn)]
    simp [serveHost, hc, mapNext]
  · rw [step_serves (by simpa using hn) (by simpa using hc)]
    exact h.performCall_relabel c (s.setCalls rest)
  · rw [step_waiting (by simpa using hrun) (by simpa using hp)]
    exact h.awaitReply_relabel hr
  · rw [step_running (by simpa using hrun) (by simpa using hp)]
    exact h.cycle_relabel hr

end

/-! A longer event history: a step appends to it and does not read it. -/

theorem relabelling_earlier (l : List Event) : Relabelling id (l ++ ·) where
  memorySize _ := rfl
  parseTo _ := rfl
  emit _ _ _ _ := (List.append_assoc ..).symm
  trace _ _ _ := (List.append_assoc ..).symm
  debug _ _ _ := (List.append_assoc ..).symm

/-- A step appends the events it would append to an empty history, and is otherwise the same step. -/
theorem step_from_no_events {s t : State} (h : step s = .next t) :
    ∃ l, t.events = s.events ++ l ∧ step { s with events := [] } = .next { t with events := l } := by
  have hs : s = State.relabel id (s.events ++ ·) { s with events := [] } := by simp [State.relabel]
  have hstep := (relabelling_earlier s.events).step_relabel (s := { s with events := [] }) (.inl rfl)
  rw [← hs, h] at hstep
  obtain ⟨u, hu, rfl⟩ := mapNext_eq_next hstep.symm
  exact ⟨u.events, rfl, hu⟩

/-! The configuration. -/

theorem acceptReply_cfg (r : Reply) (s : State) : (acceptReply r s).cfg = s.cfg := by
  rcases acceptReply_cases r s with ⟨z, -, h⟩ | ⟨-, -, h⟩ | ⟨-, -, h⟩ <;> simp [h]

theorem awaitReply_cfg {s t : State} (h : awaitReply s = .next t) : t.cfg = s.cfg := by
  rcases awaitReply_cases h with ⟨-, rfl⟩ | ⟨r, rest, -, rfl⟩
  · rfl
  · exact acceptReply_cfg _ _

theorem exec_cfg {i : Instr} {s t : State} (h : exec i s = .next t) : t.cfg = s.cfg := by
  rcases exec_ends h with ⟨-, -, hc, -⟩ | ⟨-, rfl⟩ | ⟨x, -, ha⟩ | ⟨k, a, -, -, rfl⟩ | ⟨k, x, -, -, rfl⟩
  · exact hc.cfg
  · simp
  · exact awaitReply_cfg (s := (s.emit .inputRequest).setPending true) ha
  · rfl
  · rfl

theorem performCall_cfg {c : HostCall} {s t : State} (h : performCall c s = .next t) : t.cfg = s.cfg := by
  rcases performCall_cases h with ⟨-, rfl⟩ | ⟨p, -, -, rfl⟩ | ⟨r, v, -, rfl⟩ | ⟨i, v, -, -, rfl⟩ | ⟨-, -, rfl⟩
  · rfl
  · rfl
  · cases r <;> rfl
  · rfl
  · rfl

/-- No step changes the configuration (10_state.md R34). -/
theorem step_cfg {s t : State} (h : step s = .next t) : t.cfg = s.cfg := by
  by_cases hrun : s.rs = .running
  · rcases run_ends hrun h with ⟨-, h⟩ | ⟨k, -, -, h⟩ | ⟨p, k, -, -, -, -, h⟩ | ⟨p, w, -, h⟩
    · exact awaitReply_cfg h.symm
    · cases h; rfl
    · cases h; simp
    · simpa using exec_cfg h.symm
  · rw [step_resting hrun] at h
    rcases serveHost_cases h with ⟨-, h⟩ | ⟨c, rest, -, h⟩
    · cases h; rfl
    · exact performCall_cfg (s := s.setCalls rest) h.symm

/-! The option `logging`. -/

/-- The events that are no trace entries, in order. -/
def withoutTraces (l : List Event) : List Event := l.filter fun e => e.entry.isNone

theorem withoutTraces_append (l m : List Event) : withoutTraces (l ++ m) = withoutTraces l ++ withoutTraces m :=
  List.filter_append ..

theorem withoutTraces_tracesShown (c : Configuration) (e : TraceEntry) : withoutTraces (tracesShown c [e]) = [] := by
  unfold tracesShown
  split <;> rfl

theorem withoutTraces_debugShown (c : Configuration) (v : Value) : withoutTraces (debugShown c v) = debugShown c v := by
  unfold debugShown
  split <;> rfl

theorem filterMap_entry_withoutTraces (l : List Event) : (withoutTraces l).filterMap Event.entry = [] := by
  simp [withoutTraces, List.filterMap_eq_nil_iff]

theorem dropTraces_events (s : State) : s.dropTraces.events = withoutTraces s.events :=
  List.filter_congr fun e _ => by cases e <;> rfl

/-- The configuration with `logging` off. -/
def loggingOff (c : Configuration) : Configuration := { c with logging := false }

/-- The state with `logging` off and without its trace events: the machine as it would be had it never traced. -/
def State.quiet (s : State) : State := s.relabel loggingOff withoutTraces

theorem relabelling_quiet : Relabelling loggingOff withoutTraces where
  memorySize _ := rfl
  parseTo _ := rfl
  emit l e he _ := by simp [withoutTraces, he]
  trace c l e := by
    rw [withoutTraces_append, withoutTraces_tracesShown]
    rfl
  debug c l v := by
    rw [withoutTraces_append, withoutTraces_debugShown]
    rfl

theorem step_quiet (s : State) : step s.quiet = mapNext State.quiet (step s) :=
  relabelling_quiet.step_relabel (.inl rfl)

/-- The setting of `logging` does not show in the quiet machine, so a step under either setting is the same there. -/
theorem mapNext_quiet_step_withLogging (b : Bool) (s : State) :
    mapNext State.quiet (step (s.withLogging b)) = mapNext State.quiet (step s) := by
  rw [← step_quiet, ← step_quiet]
  rfl

theorem dropTraces_eq_quiet (s : State) : s.dropTraces = s.quiet.withLogging s.cfg.logging :=
  State.ext rfl rfl rfl rfl rfl rfl rfl rfl rfl (dropTraces_events s) rfl rfl rfl rfl rfl

theorem step_withLogging_next {s t : State} (b : Bool) (h : step s = .next t) :
    ∃ u, step (s.withLogging b) = .next u ∧ u.dropTraces = (t.withLogging b).dropTraces := by
  have hq : mapNext State.quiet (step (s.withLogging b)) = .next t.quiet := by
    rw [mapNext_quiet_step_withLogging, h]
    rfl
  obtain ⟨u, hu, hut⟩ := mapNext_eq_next hq
  have hlog : u.cfg.logging = b := by rw [step_cfg hu]; rfl
  refine ⟨u, hu, ?_⟩
  calc u.dropTraces = u.quiet.withLogging b := by rw [dropTraces_eq_quiet, hlog]
    _ = (t.withLogging b).quiet.withLogging b := by rw [hut]; rfl
    _ = (t.withLogging b).dropTraces := (dropTraces_eq_quiet (t.withLogging b)).symm

theorem step_withLogging_refused {s : State} {r : Refusal} (b : Bool) (h : step s = .refused r) :
    step (s.withLogging b) = .refused r := by
  have hq : mapNext State.quiet (step (s.withLogging b)) = .refused r := by
    rw [mapNext_quiet_step_withLogging, h]
    rfl
  exact mapNext_eq_refused hq

/-- Without `logging` a step appends no trace entry: from an empty history the machine is its own quiet machine. -/
theorem step_unlogged_traceLog {s t : State} (hlog : s.cfg.logging = false) (h : step s = .next t) :
    t.traceLog = s.traceLog := by
  obtain ⟨l, hl, h0⟩ := step_from_no_events h
  have hq : State.quiet { s with events := [] } = { s with events := [] } := by
    simp [State.quiet, State.relabel, loggingOff, withoutTraces, ← hlog]
  have hstep := step_quiet { s with events := [] }
  rw [hq, h0] at hstep
  have hfix : l = withoutTraces l := congrArg State.events (Host.Outcome.next.inj hstep)
  rw [traceLog_append hl, hfix, filterMap_entry_withoutTraces, List.append_nil]

/-- Settles O44: the quiet machine steps alike under either setting (R8, R35). -/
theorem loggingOnlyTraces : Obligations.LoggingOnlyTraces := fun s b =>
  ⟨fun _ h => step_withLogging_next b h, fun _ h => step_withLogging_refused b h,
    fun _ h => step_unlogged_traceLog (s := s.withLogging false) rfl h⟩

/-! The option `errorLogging`. -/

/-- The configuration with `errorLogging` off. -/
def errorLoggingOff (c : Configuration) : Configuration := { c with errorLogging := false }

theorem relabelling_unchecked : Relabelling errorLoggingOff id where
  memorySize _ := rfl
  parseTo _ := rfl
  emit _ _ _ _ := rfl
  trace _ _ _ := rfl
  debug _ _ _ := rfl

/-- A step that takes no fault is the same step with `errorLogging` off, whichever way it was set (R53, R110). -/
theorem step_withErrorLogging_off {s t : State} (h : step s = .next t) (hrs : t.rs ≠ .faulted) :
    step (s.withErrorLogging false) = .next (t.withErrorLogging false) := by
  have hno : ¬ TakesFault (step s) := by
    rintro ⟨u, hu, hf⟩
    cases h.symm.trans hu
    exact hrs hf
  have hstep := relabelling_unchecked.step_relabel (.inr ⟨rfl, hno⟩)
  rw [h] at hstep
  exact hstep

/-- Settles O46: turning `errorLogging` off is a relabelling that makes the same checks on the way to a state that is not Faulted. -/
theorem errorLoggingOnlyFaults : Obligations.ErrorLoggingOnlyFaults := fun s _ h hrs =>
  step_withErrorLogging_off (s := s.withErrorLogging true) h hrs

end Sys2Proof.Machine
end

section
/-!
SUPPORT. The state over one step (10_state.md): what an instruction does to `MAR` and `MDR`, what a step does to the Word Store,
and everything a step of a run or a call of the host can leave, each said once.
-/

namespace Sys2Proof.Machine

/-! The opcode of a decoded word. -/

theorem instrOf_opcode (op : Int) (a : Address) : (instrOf op a).opcode = op := by
  simp only [instrOf, apply_ite Instr.opcode]
  simp only [Instr.opcode]
  omega

theorem decodeWord_opcode (w : Int) : (decodeWord w).opcode = opcodeField w := instrOf_opcode _ _

/-! The access registers. -/

/-- The instruction has a cell operand, the one `a` names (30_encoding.md R75). -/
abbrev HasOperand (i : Instr) (a : Address) : Prop := i = .load a ∨ i = .store a ∨ i = .add a ∨ i = .subtract a

theorem not_unfaulted_of_check {c : Configuration} {z : Int} {k : CheckKind} (h : check c (.int z) = .fault k) :
    ¬ Unfaulted c z := fun hu => by
  rw [check_pass_of hu] at h
  cases h

/-- LOAD, ADD and SUBTRACT alike: AF_OPERAND, or the operand read to `MDR`, some value in `AC`, and the trace
(R101, R107, R108). -/
theorem exec_reader_ends {i : Instr} {a : Address} {s : State} {r} (hi : i = .load a ∨ i = .add a ∨ i = .subtract a)
    (h : exec i s = r) :
    (∃ k, check s.cfg (.int a.index) = .fault k ∧ r = .next (raiseFault (.afOperand k) (.value (.int a.index)) s)) ∨
      (Unfaulted s.cfg a.index ∧
        ∃ e v, r = .next (advance (traceEntry e ((readToMdr a.index (s.setMar (.int a.index))).setAc v)))) := by
  rcases hi with rfl | rfl | rfl
  · exact (exec_load_cases h).imp_right fun ⟨hu, h⟩ => ⟨hu, _, _, h⟩
  · exact (exec_add_cases h).imp_right fun ⟨hu, h⟩ => ⟨hu, _, _, h⟩
  · exact (exec_subtract_cases h).imp_right fun ⟨hu, h⟩ => ⟨hu, _, _, h⟩

/-- LOAD, ADD and SUBTRACT: both access registers stay, or `MAR` is the operand's index and `MDR` the value read there
(R25, R26). -/
theorem exec_reader_regs {i : Instr} {a : Address} {s t : State} (hi : i = .load a ∨ i = .add a ∨ i = .subtract a)
    (h : exec i s = .next t) :
    (¬ Unfaulted s.cfg a.index ∧ t.mar = s.mar ∧ t.mdr = s.mdr) ∨
      (Unfaulted s.cfg a.index ∧ t.mar = .int a.index ∧ t.mdr = readCell a.index s) := by
  rcases exec_reader_ends hi h with ⟨k, hk, h⟩ | ⟨hu, e, v, h⟩ <;> cases h
  · exact .inl ⟨not_unfaulted_of_check hk, rfl, rfl⟩
  · exact .inr ⟨hu, by simp, by simp⟩

/-- STORE: `MAR` stays or is the operand's index, and `MDR` stays (R25, R26). -/
theorem exec_store_regs {a : Address} {s t : State} (h : exec (.store a) s = .next t) :
    ((¬ Unfaulted s.cfg a.index ∧ t.mar = s.mar) ∨ (Unfaulted s.cfg a.index ∧ t.mar = .int a.index)) ∧ t.mdr = s.mdr := by
  rcases exec_store_cases h with ⟨k, hk, h⟩ | ⟨hin, h⟩ | ⟨-, -, h⟩ <;> cases h
  · exact ⟨.inl ⟨not_unfaulted_of_check hk, rfl⟩, rfl⟩
  · exact ⟨.inr ⟨.inr hin, by simp⟩, by simp⟩

/-- INPUT's wait leaves both access registers alone, however it ends. -/
theorem awaitReply_regs {s t : State} (h : awaitReply s = .next t) : t.mar = s.mar ∧ t.mdr = s.mdr := by
  rcases awaitReply_ends h with ⟨-, rfl⟩ | ⟨r, rest, -, -, -, -, hmar, hmdr, -⟩ | ⟨rest, -, -, rfl⟩
  · exact ⟨rfl, rfl⟩
  · exact ⟨hmar, hmdr⟩
  · exact ⟨rfl, rfl⟩

/-- An instruction without a cell operand leaves both access registers alone. -/
theorem exec_regs_of_no_operand {i : Instr} {s t : State} (hi : ∀ a, ¬ HasOperand i a) (h : exec i s = .next t) :
    t.mar = s.mar ∧ t.mdr = s.mdr := by
  cases i with
  | load a | store a | add a | subtract a => exact (hi a (by simp [HasOperand])).elim
  | input x => exact awaitReply_regs (s := (s.emit .inputRequest).setPending true) h
  | output x => rcases exec_output_cases h with ⟨k, -, h⟩ | ⟨z, -, -, h⟩ <;> cases h <;> simp
  | halt => cases h; simp
  | op15Nop | unknown0 | unknown7 | unknown8 | unknown9 | unknown10 | unknown11 | unknown12 | unknown13 | unknown14 |
    unknownWide => rw [exec_noOp (by trivial)] at h; cases h; simp

/-- The four memory instructions and `MAR` (R26). -/
theorem exec_operand_mar {i : Instr} {a : Address} {s t : State} (hi : HasOperand i a) (h : exec i s = .next t) :
    (¬ Unfaulted s.cfg a.index ∧ t.mar = s.mar) ∨ (Unfaulted s.cfg a.index ∧ t.mar = .int a.index) := by
  have reader : (i = .load a ∨ i = .add a ∨ i = .subtract a) →
      (¬ Unfaulted s.cfg a.index ∧ t.mar = s.mar) ∨ (Unfaulted s.cfg a.index ∧ t.mar = .int a.index) := fun hr =>
    (exec_reader_regs hr h).imp (fun ⟨hu, hmar, _⟩ => ⟨hu, hmar⟩) fun ⟨hu, hmar, _⟩ => ⟨hu, hmar⟩
  rcases hi with hi | rfl | hi | hi
  · exact reader (.inl hi)
  · exact (exec_store_regs h).1
  · exact reader (.inr (.inl hi))
  · exact reader (.inr (.inr hi))

/-- An instruction leaves `MAR` or writes an integer to it. -/
theorem exec_mar {i : Instr} {s t : State} (h : exec i s = .next t) : t.mar = s.mar ∨ ∃ z, t.mar = .int z := by
  by_cases hi : ∃ a, HasOperand i a
  · obtain ⟨a, hi⟩ := hi
    exact (exec_operand_mar hi h).imp And.right fun ⟨_, hmar⟩ => ⟨_, hmar⟩
  · exact .inl (exec_regs_of_no_operand (not_exists.1 hi) h).1

/-! The Word Store. -/

theorem awaitReply_mem {s t : State} (h : awaitReply s = .next t) : t.mem = s.mem := by
  rcases awaitReply_ends h with ⟨-, rfl⟩ | ⟨r, rest, -, -, -, -, -, -, hmem, -⟩ | ⟨rest, -, -, rfl⟩
  · rfl
  · exact hmem
  · rfl

/-- What a step leaves in the Word Store: the cells as they were, one cell 0..N-1 written, or a program that fits copied to the
cells from 0 (20_memory.md R61, 70_reset_and_hazards.md R137). -/
theorem step_mem {s t : State} (h : step s = .next t) :
    t.mem = s.mem ∨ (∃ i v, inStore s.cfg i = true ∧ t.mem = Memory.write s.mem i.toNat v) ∨
      (∃ p : List Value, p.length ≤ s.cfg.memorySize ∧ t.mem = Memory.writeAll s.mem 0 p) := by
  by_cases hrun : s.rs = .running
  · rcases run_ends hrun h with ⟨-, h⟩ | ⟨k, -, -, h⟩ | ⟨p, k, -, -, -, -, h⟩ | ⟨p, w, -, h⟩
    · exact .inl (awaitReply_mem h.symm)
    · cases h; exact .inl rfl
    · cases h; exact .inl (by simp)
    · rcases exec_mem h.symm with hmem | ⟨a, hin, hmem⟩
      · exact .inl (by simpa using hmem)
      · exact .inr (.inl ⟨a.index, s.ac, by simpa using hin, by simpa using hmem⟩)
  · rw [step_resting hrun] at h
    rcases serveHost_cases h with ⟨-, h⟩ | ⟨c, rest, -, h⟩
    · cases h; exact .inl rfl
    · rcases performCall_cases h.symm with ⟨-, rfl⟩ | ⟨p, -, hlen, rfl⟩ | ⟨r, v, -, rfl⟩ | ⟨i, v, -, hin, rfl⟩ | ⟨-, -, rfl⟩
      · exact .inl rfl
      · exact .inr (.inr ⟨amendProgram p, hlen, rfl⟩)
      · exact .inl (by cases r <;> rfl)
      · exact .inr (.inl ⟨i, v, hin, rfl⟩)
      · exact .inl rfl

/-- Every step keeps the canonical form. -/
theorem step_keeps_wf {s t : State} (h : step s = .next t) (hwf : Memory.WF s.mem) : Memory.WF t.mem := by
  rcases step_mem h with hmem | ⟨i, v, -, hmem⟩ | ⟨p, -, hmem⟩ <;> rw [hmem]
  · exact hwf
  · exact Memory.write_wf hwf _ _
  · exact Memory.writeAll_wf _ _ hwf

/-- Every step keeps the listed cells inside the Word Store (R30). -/
theorem step_keeps_cellsInside {s t : State} (h : step s = .next t) (hin : CellsInside s) : CellsInside t := by
  intro e he
  rw [step_cfg h]
  rcases step_mem h with hmem | ⟨i, v, hi, hmem⟩ | ⟨p, hlen, hmem⟩ <;> rw [hmem] at he
  · exact hin e he
  · rcases Memory.mem_write he with rfl | he
    · obtain ⟨h0, hN⟩ := inStore_eq_true.1 hi
      show i.toNat < s.cfg.memorySize
      omega
    · exact hin e he
  · rcases Memory.mem_writeAll p he with hlt | he
    · omega
    · exact hin e he

/-! One step of a run. -/

/-- What a step of a run keeps, whatever it ends in: `MQ`, and `MAR` or an integer in it (R28, R44). -/
structure KeepsMqMar (s t : State) : Prop where
  mq : t.mq = s.mq
  mar : t.mar = s.mar ∨ ∃ z, t.mar = .int z

/-- Everything a step of a run can leave (R33, R39). -/
inductive RunStep (s : State) : State → Prop
  /-- INPUT goes on waiting. -/
  | waits (pending : s.inputPending = true) (noReply : s.replies = []) : RunStep s s
  /-- INPUT makes its request and finds no reply. -/
  | requests {p w : Int} (fetches : Fetches s p w) (opcode : opcodeField w = 5) :
      RunStep s (((fetch p s).emit .inputRequest).setPending true)
  /-- The cycle, or the rest of INPUT's cycle, completes. -/
  | completes {t : State} (keeps : KeepsMqMar s t) (origin : s.inputPending = true ∨ ∃ p, s.pc = .int p)
      (pc : t.pc = nextPc s.pc) (rs : t.rs = .running) (pending : t.inputPending = false) : RunStep s t
  /-- The cycle runs the sentinel. -/
  | halts {p w : Int} (fetches : Fetches s p w) : RunStep s (haltRun (advance (fetch p s)))
  /-- A fault is taken, in a state whose registers hold what was written before it. -/
  | faults {u : State} (f : Fault) (o : Offender) (keeps : KeepsMqMar s u) (pc : u.pc = s.pc)
      (pending : u.inputPending = false) : RunStep s (raiseFault f o u)

theorem fetch_keepsMqMar (p : Int) (s : State) : KeepsMqMar s (fetch p s) := ⟨by simp, .inr ⟨p, by simp⟩⟩

theorem runStep_of_awaitReply {s t : State} (hrun : s.rs = .running) (hp : s.inputPending = true) (h : awaitReply s = .next t) :
    RunStep s t := by
  rcases awaitReply_ends h with ⟨hq, rfl⟩ | ⟨r, rest, -, -, hpend, hc, hmar, -⟩ | ⟨rest, -, -, rfl⟩
  · exact .waits hp hq
  · exact .completes ⟨hc.mq, .inl hmar⟩ (.inl hp) hc.pc (hc.rs.trans hrun) hpend
  · exact .faults _ _ ⟨rfl, .inl rfl⟩ rfl rfl

theorem runStep_of_exec {s t : State} {p w : Int} (hf : Fetches s p w) (h : exec (decodeWord w) (fetch p s) = .next t) :
    RunStep s t := by
  have ⟨hrun, hnp, hpc, _⟩ := hf
  have keeps : t.mq = (fetch p s).mq → KeepsMqMar s t := fun hmq =>
    ⟨by simpa using hmq, .inr ((exec_mar h).elim (fun hmar => ⟨p, by simpa using hmar⟩) id)⟩
  rcases exec_ends h with ⟨-, -, hc, hpend, -⟩ | ⟨-, rfl⟩ | ⟨x, hx, ha⟩ | ⟨k, a, -, -, rfl⟩ | ⟨k, x, -, -, rfl⟩
  · exact .completes (keeps hc.mq) (.inr ⟨p, hpc⟩) (by simpa using hc.pc) (by simpa [hrun] using hc.rs)
      (by simpa [hnp] using hpend)
  · exact .halts hf
  · have hop : opcodeField w = 5 := by rw [← decodeWord_opcode, hx]; rfl
    rcases awaitReply_ends ha with ⟨-, rfl⟩ | ⟨r, rest, -, -, hpend, hc, -⟩ | ⟨rest, -, -, rfl⟩
    · exact .requests hf hop
    · exact .completes (keeps hc.mq) (.inr ⟨p, hpc⟩) (by simpa using hc.pc) (by simpa [hrun] using hc.rs) hpend
    · exact .faults _ _ ⟨by simp, .inr ⟨p, by simp⟩⟩ (by simp) (by simp)
  · exact .faults _ _ (fetch_keepsMqMar p s) (by simp) (by simpa using hnp)
  · exact .faults _ _ (fetch_keepsMqMar p s) (by simp) (by simpa using hnp)

theorem runStep_of_step {s t : State} (hrun : s.rs = .running) (h : step s = .next t) : RunStep s t := by
  rcases run_ends hrun h with ⟨hp, h⟩ | ⟨k, hp, -, h⟩ | ⟨p, k, hp, -, -, -, h⟩ | ⟨p, w, hf, h⟩
  · exact runStep_of_awaitReply hrun hp h.symm
  · cases h; exact .faults _ _ ⟨rfl, .inl rfl⟩ rfl hp
  · cases h; exact .faults _ _ (fetch_keepsMqMar p s) (by simp) (by simpa using hp)
  · exact runStep_of_exec hf h.symm

theorem RunStep.mq {s t : State} (h : RunStep s t) : t.mq = s.mq := by
  cases h with
  | waits => rfl
  | requests => simp
  | completes keeps => exact keeps.mq
  | halts => simp
  | faults f o keeps => exact keeps.mq

theorem RunStep.mar {s t : State} (h : RunStep s t) : t.mar = s.mar ∨ ∃ z, t.mar = .int z := by
  cases h with
  | waits => exact .inl rfl
  | requests => simp
  | completes keeps => exact keeps.mar
  | halts => simp
  | faults f o keeps => exact keeps.mar

theorem RunStep.pc {s t : State} (h : RunStep s t) : t.pc = s.pc ∨ t.pc = nextPc s.pc := by
  cases h with
  | waits => exact .inl rfl
  | requests => simp
  | completes _ _ pc => exact .inr pc
  | halts => simp
  | faults _ _ _ pc => exact .inl pc

/-! One step outside a run. -/

/-- What the named register holds. -/
def RegName.read : RegName → State → Value
  | .ac, s => s.ac
  | .mq, s => s.mq
  | .pc, s => s.pc
  | .ir, s => s.ir
  | .mar, s => s.mar
  | .mdr, s => s.mdr

/-- A host write of a register sets that one (R44). -/
theorem read_hostWriteReg (r q : RegName) (v : Value) (s : State) :
    q.read (hostWriteReg r v s) = if q = r then v else q.read s := by
  cases r <;> cases q <;> rfl

/-- A step outside a run changes a register only by the host's write of it (R40, R44). -/
theorem resting_step_reg {s t : State} (hr : s.rs ≠ .running) (h : step s = .next t) (q : RegName) :
    q.read t = q.read s ∨ ∃ rest, s.calls = .writeReg q (q.read t) :: rest := by
  rw [step_resting hr] at h
  rcases serveHost_cases h with ⟨-, h⟩ | ⟨c, rest, hc, h⟩
  · cases h; exact .inl rfl
  · rcases performCall_cases h.symm with ⟨-, rfl⟩ | ⟨p, -, -, rfl⟩ | ⟨r, v, rfl, rfl⟩ | ⟨i, v, -, -, rfl⟩ | ⟨-, -, rfl⟩
    · exact .inl (by cases q <;> rfl)
    · exact .inl (by cases q <;> rfl)
    · rw [read_hostWriteReg]
      by_cases hq : q = r
      · subst hq
        exact .inr ⟨rest, by simpa using hc⟩
      · exact .inl (by rw [if_neg hq]; cases q <;> rfl)
    · exact .inl (by cases q <;> rfl)
    · exact .inl (by cases q <;> rfl)

/-- A step outside a run shows no event and begins no wait, and leaves the run state or starts a run (R83). -/
theorem resting_step_frame {s t : State} (hr : s.rs ≠ .running) (h : step s = .next t) :
    t.events = s.events ∧ t.inputPending = s.inputPending ∧ (t.rs = s.rs ∨ t.rs = .running) := by
  rw [step_resting hr] at h
  rcases serveHost_cases h with ⟨-, h⟩ | ⟨c, rest, -, h⟩
  · cases h; exact ⟨rfl, rfl, .inl rfl⟩
  · rcases performCall_cases h.symm with ⟨-, rfl⟩ | ⟨p, -, -, rfl⟩ | ⟨r, v, -, rfl⟩ | ⟨i, v, -, -, rfl⟩ | ⟨-, -, rfl⟩
    · exact ⟨rfl, rfl, .inl rfl⟩
    · exact ⟨rfl, rfl, .inl rfl⟩
    · cases r <;> exact ⟨rfl, rfl, .inl rfl⟩
    · exact ⟨rfl, rfl, .inl rfl⟩
    · exact ⟨rfl, rfl, .inr rfl⟩

/-! The invariant. -/

theorem RunStep.keeps_wait {s t : State} (hrun : s.rs = .running) (hw : WaitSound s) (h : RunStep s t) : WaitSound t := by
  intro hp
  cases h with
  | waits pending => exact hw pending
  | @requests p w fetches opcode =>
    obtain ⟨-, -, hpc, -, hread, -⟩ := fetches
    exact ⟨by simpa using hrun, ⟨w, by simpa using hread, opcode⟩, ⟨p, by simpa using hpc, by simp⟩, by simp⟩
  | completes _ _ _ _ pending => cases hp.symm.trans pending
  | halts fetches =>
    obtain ⟨-, hnp, -⟩ := fetches
    cases hp.symm.trans (by simpa using hnp)
  | faults _ _ _ _ pending => cases hp.symm.trans pending

/-- A step of a run goes on, or ends the run with its notice as the last event (R33). -/
theorem RunStep.ends_shown {s t : State} (hrun : s.rs = .running) (h : RunStep s t) : EndsShown t := by
  cases h with
  | waits => simp [EndsShown, hrun]
  | requests => simp [EndsShown, hrun]
  | completes _ _ _ rs => simp [EndsShown, rs]
  | halts => simp [EndsShown]
  | faults f o => simp [EndsShown]

theorem step_keeps_wait {s t : State} (hw : WaitSound s) (h : step s = .next t) : WaitSound t := by
  by_cases hrun : s.rs = .running
  · exact (runStep_of_step hrun h).keeps_wait hrun hw
  · obtain ⟨-, hpend, -⟩ := resting_step_frame hrun h
    exact fun hp => absurd (hw (hpend.symm.trans hp)).1 hrun

theorem step_keeps_ends {s t : State} (he : EndsShown s) (h : step s = .next t) : EndsShown t := by
  by_cases hrun : s.rs = .running
  · exact (runStep_of_step hrun h).ends_shown hrun
  · obtain ⟨hev, -, hrs | hrs⟩ := resting_step_frame hrun h
    · simpa [EndsShown, hev, hrs] using he
    · simp [EndsShown, hrs]

theorem step_keeps_inv {s t : State} (hi : Inv s) (h : step s = .next t) : Inv t where
  canonical := step_keeps_wf h hi.canonical
  inside := step_keeps_cellsInside h hi.inside
  size := by rw [step_cfg h]; exact hi.size
  wait := step_keeps_wait hi.wait h
  ends := step_keeps_ends hi.ends h

/-- Settles O57: each clause of the invariant is kept by every step (R30, R33, R39). -/
theorem stepKeepsInv : Obligations.StepKeepsInv := fun _ _ hi h => step_keeps_inv hi h

end Sys2Proof.Machine
end

section
/-!
SUPPORT. The statements on the registers, the configuration, the events, the wait and the host's writes (10_state.md).
-/

namespace Sys2Proof.Machine

/-! STORE's frame. -/

/-- Settles O24: the one write is to the cell the address field names, so every other cell reads as before (R60, R102). -/
theorem frameStore : Obligations.FrameStore := by
  intro a s t h
  rcases exec_store_cases h with ⟨k, -, h⟩ | ⟨-, h⟩ | ⟨-, -, h⟩ <;> cases h
  · exact ⟨by simp, by simp, fun _ _ => rfl, .inr ⟨rfl, rfl, rfl, fun _ => rfl⟩⟩
  · refine ⟨by simp, by simp, fun n hn => ?_, .inl (by simp)⟩
    have hne : n ≠ a.toNat := fun hc => hn (congrArg Nat.cast hc)
    simpa using Memory.read_write_other s.mem s.ac hne

/-! `MQ`. -/

section
variable (v : Value) (s : State)

theorem traceEntry_setMq (e : TraceEntry) : traceEntry e (s.setMq v) = (traceEntry e s).setMq v := by
  apply State.ext <;> simp

theorem traceInputEntry_setMq : traceInputEntry (s.setMq v) = (traceInputEntry s).setMq v := by
  apply State.ext <;> simp

theorem advance_setMq : advance (s.setMq v) = (advance s).setMq v := by
  apply State.ext <;> simp

@[simp] theorem readCell_setMq (z : Int) : readCell z (s.setMq v) = readCell z s := rfl

@[simp] theorem afterRead_setMq_draws (z : Int) : (afterRead z (s.setMq v)).draws = (afterRead z s).draws := by
  rw [afterRead_draws, afterRead_draws]
  rfl

theorem readToMdr_setMq (z : Int) : readToMdr z (s.setMq v) = (readToMdr z s).setMq v := by
  apply State.ext <;> simp

theorem fetch_setMq (p : Int) : fetch p (s.setMq v) = (fetch p s).setMq v := by
  apply State.ext <;> simp

theorem acceptReply_setMq (r : Reply) : acceptReply r (s.setMq v) = (acceptReply r s).setMq v := by
  have completes (w : Value) : advance (traceInputEntry (((s.setMq v).emit (.inputReply r)).setAc w)) =
      (advance (traceInputEntry ((s.emit (.inputReply r)).setAc w))).setMq v := by
    rw [← advance_setMq, ← traceInputEntry_setMq]
    rfl
  cases r with
  | int z => exact completes (.int z)
  | unparseable =>
    by_cases he : s.cfg.errorLogging = true
    · simp only [acceptReply, State.setMq_cfg, he, if_true]
      rfl
    · simp only [acceptReply, State.setMq_cfg, he]
      exact completes .invalid

theorem awaitReply_setMq : awaitReply (s.setMq v) = mapNext (State.setMq v) (awaitReply s) := by
  unfold awaitReply
  rw [State.setMq_replies]
  cases s.replies with
  | nil => rfl
  | cons r rest => exact congrArg _ (acceptReply_setMq v ((s.setReplies rest).setPending false) r)

theorem withOperand_setMq (a : Address) {k : Int → State → Host.Outcome State Fault Refusal}
    (hk : ∀ z u, k z (u.setMq v) = mapNext (State.setMq v) (k z u)) :
    withOperand a (s.setMq v) k = mapNext (State.setMq v) (withOperand a s k) := by
  unfold withOperand
  rw [State.setMq_cfg]
  cases check s.cfg (.int a.index) with
  | fault kind => rfl
  | pass z => exact hk z (s.setMar (.int z))

/-- No instruction reads or writes `MQ` (R28). -/
theorem exec_setMq (i : Instr) : exec i (s.setMq v) = mapNext (State.setMq v) (exec i s) := by
  cases i with
  | load a | add a | subtract a =>
    simp only [exec, execLoad, execAdd, execSubtract]
    refine withOperand_setMq v s a fun z u => ?_
    simp only [readToMdr_setMq, mapNext, ← advance_setMq, ← traceEntry_setMq]
    rfl
  | store a =>
    simp only [exec, execStore]
    refine withOperand_setMq v s a fun z u => ?_
    unfold memWrite
    rw [State.setMq_cfg]
    split
    · simp only [mapNext, ← advance_setMq, ← traceEntry_setMq]
      rfl
    · rfl
  | input x => exact awaitReply_setMq v ((s.emit .inputRequest).setPending true)
  | output x =>
    simp only [exec, execOutput, State.setMq_cfg, State.setMq_ac]
    cases check s.cfg s.ac with
    | fault kind => rfl
    | pass z => simp only [mapNext, ← advance_setMq, ← traceEntry_setMq]
  | halt => exact congrArg (fun u => Host.Outcome.next (haltRun u)) (advance_setMq v s)
  | op15Nop | unknown0 | unknown7 | unknown8 | unknown9 | unknown10 | unknown11 | unknown12 | unknown13 | unknown14 |
    unknownWide =>
    rw [exec_noOp (by trivial), exec_noOp (by trivial)]
    exact congrArg _ (advance_setMq v s)

theorem decodeAndExecute_setMq : decodeAndExecute (s.setMq v) = mapNext (State.setMq v) (decodeAndExecute s) := by
  unfold decodeAndExecute
  rw [State.setMq_cfg, State.setMq_ir]
  cases check s.cfg s.ir with
  | fault kind => rfl
  | pass w => exact exec_setMq v s (decodeWord w)

theorem cycle_setMq : cycle (s.setMq v) = mapNext (State.setMq v) (cycle s) := by
  unfold cycle
  rw [State.setMq_cfg, State.setMq_pc]
  cases check s.cfg s.pc with
  | fault kind => rfl
  | pass p =>
    simp only [fetch_setMq]
    exact decodeAndExecute_setMq v (fetch p s)

/-- A step of a run neither reads nor writes `MQ` (R28). -/
theorem step_setMq (hrun : s.rs = .running) : step (s.setMq v) = mapNext (State.setMq v) (step s) := by
  cases hp : s.inputPending with
  | true => rw [step_waiting hrun hp, step_waiting (by simpa using hrun) (by simpa using hp), awaitReply_setMq]
  | false => rw [step_running hrun hp, step_running (by simpa using hrun) (by simpa using hp), cycle_setMq]

end

/-- Settles O38: a run's step carries `MQ` along, and outside a run a register changes only by a host write of it. -/
theorem mqIsUntouched : Obligations.MqIsUntouched := by
  refine ⟨fun s v hrun => step_setMq v s hrun, fun s t h hne => ?_, fun _ _ => rfl⟩
  by_cases hrun : s.rs = .running
  · exact absurd (runStep_of_step hrun h).mq hne
  · exact ⟨hrun, (resting_step_reg hrun h .mq).resolve_left hne⟩

/-! `MDR` and `MAR`. -/

/-- Settles O39: only the instructions that read their operand reach `MDR` (R25). -/
theorem mdrWriters : Obligations.MdrWriters := by
  refine ⟨fun i s t h => ?_, fun i a s t hi hu h => ?_, fun a s t h => (exec_store_regs h).2, fetch_mdr⟩
  · by_cases hr : ∃ a, i = .load a ∨ i = .add a ∨ i = .subtract a
    · obtain ⟨a, hi⟩ := hr
      exact (exec_reader_regs hi h).imp (·.2.2) fun ⟨_, _, hmdr⟩ => ⟨a, hi, hmdr⟩
    · refine .inl ?_
      by_cases hs : ∃ a, i = .store a
      · obtain ⟨a, rfl⟩ := hs
        exact (exec_store_regs h).2
      · refine (exec_regs_of_no_operand (fun a ha => ?_) h).2
        rcases ha with ha | ha | ha | ha
        · exact hr ⟨a, .inl ha⟩
        · exact hs ⟨a, ha⟩
        · exact hr ⟨a, .inr (.inl ha)⟩
        · exact hr ⟨a, .inr (.inr ha)⟩
  · rcases exec_reader_regs hi h with ⟨hnu, -⟩ | ⟨-, -, hmdr⟩
    · exact absurd hu hnu
    · exact hmdr

/-- Settles O40: the operand's index is written where its check passes, and an opcode outside 1..4 has no operand (R26). -/
theorem marWriters : Obligations.MarWriters := by
  refine ⟨fetch_mar, fun i a s t hi h => ?_, fun i s t hi h => ?_⟩
  · rcases exec_operand_mar hi h with ⟨hnu, hmar⟩ | ⟨hu, hmar⟩
    · exact ⟨fun hu => absurd hu hnu, fun _ => hmar⟩
    · exact ⟨fun _ => hmar, fun hnu => absurd hu hnu⟩
  · refine (exec_regs_of_no_operand (fun a ha => hi ?_) h).1
    rcases ha with rfl | rfl | rfl | rfl <;> simp [Instr.opcode]

/-! The configuration and the events. -/

/-- Settles O41: no operation writes the configuration, and each one that writes cells stays inside 0..N-1 (R30, R34). -/
theorem configurationIsFixed : Obligations.ConfigurationIsFixed := fun _ _ h => ⟨step_cfg h, step_keeps_cellsInside h⟩

/-- Settles O42: a step appends what it would append to an empty history (R37). -/
theorem eventsOnlyAppend : Obligations.EventsOnlyAppend := fun _ _ h => by
  obtain ⟨l, hl, -⟩ := step_from_no_events h
  exact ⟨l, hl, traceLog_append hl⟩

/-- An instruction with no handler is HALT or a no-op (R89). -/
theorem halt_or_noOp {i : Instr} (hi : i.opcode ∉ [1, 2, 3, 4, 5, 6]) : i = .halt ∨ IsNoOp i := by
  cases i with
  | load | store | add | subtract | input | output => exact absurd (by simp [Instr.opcode]) hi
  | halt => exact .inl rfl
  | op15Nop | unknown0 | unknown7 | unknown8 | unknown9 | unknown10 | unknown11 | unknown12 | unknown13 | unknown14 |
    unknownWide => exact .inr trivial

theorem traceLog_eq_of_append {s t : State} {l : List Event} (h : t.events = s.events ++ l)
    (hl : ∀ e ∈ l, e.entry = none) : t.traceLog = s.traceLog := by
  rw [traceLog_append h, List.filterMap_eq_nil_iff.2 hl, List.append_nil]

theorem traceLog_emit {e : Event} (he : e.entry = none) (s : State) : (s.emit e).traceLog = s.traceLog :=
  traceLog_eq_of_append (l := [e]) rfl (by simpa using he)

theorem advance_traceLog (s : State) : (advance s).traceLog = s.traceLog :=
  traceLog_eq_of_append (advance_events s) fun e he => by rw [mem_debugShown he]; rfl

theorem haltRun_traceLog (s : State) : (haltRun s).traceLog = s.traceLog := traceLog_emit (e := .done) rfl (s.setRs .halted)

/-- Settles O43: the events of an advance, a completion and a fault carry no trace entry (R36). -/
theorem silentInTheTrace : Obligations.SilentInTheTrace := by
  refine ⟨fun i s t hi h => ?_, fun s => ⟨fun p => ?_, advance_traceLog s, haltRun_traceLog s, fun f o => ?_⟩⟩
  · rcases halt_or_noOp hi with rfl | hi
    · rw [exec_halt] at h
      cases h
      rw [haltRun_traceLog, advance_traceLog]
    · rw [exec_noOp hi] at h
      cases h
      exact advance_traceLog s
  · simp [State.traceLog]
  · exact traceLog_emit (e := .diag f o) rfl s

/-! INPUT's wait. -/

/-- A step of a run that answers the same state is INPUT's wait without a reply (R39). -/
theorem RunStep.waits_of_eq {s t : State} (hrun : s.rs = .running) (h : RunStep s t) (ht : t = s) :
    s.inputPending = true ∧ s.replies = [] := by
  cases h with
  | waits pending noReply => exact ⟨pending, noReply⟩
  | requests => exact absurd (congrArg State.events ht) (by simp)
  | completes _ origin pc _ pending =>
    subst ht
    rcases origin with hp | ⟨p, hp⟩
    · cases hp.symm.trans pending
    · simp [hp, nextPc] at pc
  | halts => cases hrun.symm.trans (congrArg State.rs ht).symm
  | faults => cases hrun.symm.trans (congrArg State.rs ht).symm

/-- Settles O49: the wait without a reply is the one end of a step of a run that keeps the state (R39). -/
theorem onlyInputWaits : Obligations.OnlyInputWaits := by
  intro s hrun
  refine ⟨fun h => (runStep_of_step hrun h).waits_of_eq hrun rfl, fun ⟨hp, hq⟩ => ?_⟩
  rw [step_waiting hrun hp, awaitReply, hq]

/-! The host's writes. -/

theorem nextPc_eq_invalid {v : Value} : nextPc v = .invalid ↔ v = .invalid := by
  cases v <;> simp [nextPc]

/-- If no step of a run makes a register `Invalid`, only a host write of `Invalid` does (R44). -/
theorem step_invalid_cases {s t : State} (h : step s = .next t) (q : RegName)
    (hq : RunStep s t → q.read t = .invalid → q.read s = .invalid) (ht : q.read t = .invalid) :
    q.read s = .invalid ∨ (s.rs ≠ .running ∧ s.calls.head? = some (.writeReg q .invalid)) := by
  by_cases hrun : s.rs = .running
  · exact .inl (hq (runStep_of_step hrun h) ht)
  · refine (resting_step_reg hrun h q).imp (fun heq => heq.symm.trans ht) fun ⟨rest, hc⟩ => ⟨hrun, ?_⟩
    rw [hc, ht]
    rfl

/-- Settles O53: a step of a run writes integers to `PC` and `MAR` and leaves `MQ`, and a host write is its one
update (R44, R45). -/
theorem hostWrites : Obligations.HostWrites := by
  refine ⟨fun s t h => ⟨step_invalid_cases h .pc fun hr ht => ?_, step_invalid_cases h .mar fun hr ht => ?_,
    step_invalid_cases h .mq fun hr ht => hr.mq.symm.trans ht⟩, fun s v rest hr => ?_⟩
  · rcases hr.pc with hpc | hpc
    · exact hpc.symm.trans ht
    · exact nextPc_eq_invalid.1 (hpc.symm.trans ht)
  · rcases hr.mar with hmar | ⟨z, hmar⟩
    · exact hmar.symm.trans ht
    · cases hmar.symm.trans ht
  · refine ⟨step_serves hr, step_serves hr, step_serves hr, step_serves hr, step_serves hr, step_serves hr,
      fun z hc h0 hN => ?_⟩
    have hin : inStore s.cfg z = true := inStore_eq_true.2 ⟨h0, hN⟩
    refine ⟨{ s with mem := Memory.write s.mem z.toNat v, calls := rest }, ?_, rfl, ?_, fun n hn => ?_⟩
    · rw [step_serves hr hc]
      exact if_pos hin
    · simp [queryMem, hin]
    · exact Memory.read_write_other _ _ (by omega)

end Sys2Proof.Machine
end

section
/-!
SUPPORT. Every way a step can end, said once: it has a next state, or it is one of four refusals. Then the statements on the Word
Store (20_memory.md): the check, the write, what each instruction leaves unchanged, and what the next fetch sees.
-/

namespace Sys2Proof.Machine

/-! The operand of a decoded word. -/

/-- The opcode map keeps the address field it is given; the sentinel's is 0 (30_encoding.md R77, R78). -/
theorem instrOf_address (op : Int) (a : Address) : (instrOf op a).address = a := by
  have sentinel : (if a = 0#8 then 0#8 else a) = a := by
    by_cases ha : a = 0#8 <;> simp [ha]
  simp only [instrOf, apply_ite Instr.address]
  simp only [Instr.address, sentinel, ite_self]

theorem decodeWord_address (w : Int) : (decodeWord w).address = addressField w := instrOf_address _ _

theorem HasOperand.address_eq {i : Instr} {a : Address} (h : HasOperand i a) : i.address = a := by
  rcases h with rfl | rfl | rfl | rfl <;> rfl

/-- A word that passes the check has an operand that passes it: `w mod 256` lies between 0 and a `w` that is inside the Word
Store (R53, R57). -/
theorem unfaulted_addressField {c : Configuration} {w : Int} (h : Unfaulted c w) :
    Unfaulted c (addressField w).index := by
  refine h.imp_right fun hin => ?_
  rw [inStore_eq_true] at hin ⊢
  rw [addressField_index]
  omega

/-- No cycle takes AF_OPERAND (60_exceptions.md R119). -/
theorem Fetches.operand_unfaulted {s : State} {p w : Int} {a : Address} (h : Fetches s p w)
    (hi : HasOperand (decodeWord w) a) : Unfaulted s.cfg a.index := by
  obtain ⟨-, -, -, -, -, hw⟩ := fetches_iff.1 h
  rw [← hi.address_eq, decodeWord_address]
  exact unfaulted_addressField hw

/-- A cycle that gets as far as execution is the decoded instruction on the state after the fetch (R85). -/
theorem Fetches.step_eq {s : State} {p w : Int} (h : Fetches s p w) :
    step s = exec (decodeWord w) (fetch p s) := by
  obtain ⟨hrun, hp, hpc, hcp, hread, hcw⟩ := h
  simp [step_running hrun hp, cycle, hpc, hcp, decodeAndExecute, hread, hcw]

/-! What an instruction, a call and a step can answer. -/

theorem awaitReply_next (s : State) : ∃ t, awaitReply s = .next t := by
  unfold awaitReply
  cases s.replies with
  | nil => exact ⟨_, rfl⟩
  | cons r rest => exact ⟨_, rfl⟩

/-- An instruction has a next state, or is a STORE outside the Word Store that the check let pass (R59). -/
theorem exec_outcome (i : Instr) (s : State) :
    (∃ t, exec i s = .next t) ∨
      ∃ a, i = .store a ∧ s.cfg.errorLogging = false ∧ inStore s.cfg a.index = false ∧
        exec i s = .refused (.outOfRangeWrite a.index) := by
  have reader {a : Address} (hi : i = .load a ∨ i = .add a ∨ i = .subtract a) : ∃ t, exec i s = .next t := by
    rcases exec_reader_ends hi rfl with ⟨k, -, h⟩ | ⟨-, e, v, h⟩ <;> exact ⟨_, h⟩
  cases i with
  | load a | add a | subtract a => exact .inl (reader (a := a) (by simp))
  | store a =>
    rcases exec_store_cases (a := a) (s := s) rfl with ⟨k, -, h⟩ | ⟨-, h⟩ | ⟨he, hin, h⟩
    · exact .inl ⟨_, h⟩
    · exact .inl ⟨_, h⟩
    · exact .inr ⟨a, rfl, he, hin, h⟩
  | input x => exact .inl (awaitReply_next _)
  | output x => rcases exec_output_cases (x := x) (s := s) rfl with ⟨k, -, h⟩ | ⟨z, -, -, h⟩ <;> exact .inl ⟨_, h⟩
  | halt => exact .inl ⟨_, exec_halt s⟩
  | op15Nop | unknown0 | unknown7 | unknown8 | unknown9 | unknown10 | unknown11 | unknown12 | unknown13 | unknown14 |
    unknownWide => exact .inl ⟨_, exec_noOp (by trivial) s⟩

/-- Why a step is refused: the spec's three refusals (R59, R83, R137) and the model's own (log entry 15). -/
inductive StepRefused (s : State) : Refusal → Prop
  /-- The cycle runs a STORE outside the Word Store, which the check let pass. -/
  | store {p w : Int} {a : Address} (fetches : Fetches s p w) (decodes : decodeWord w = .store a)
      (unlogged : s.cfg.errorLogging = false) (outside : inStore s.cfg a.index = false) :
      StepRefused s (.outOfRangeWrite a.index)
  /-- The host calls Run after a fault. -/
  | run {rest : List HostCall} (faulted : s.rs = .faulted) (call : s.calls = .run :: rest) : StepRefused s .runAfterFault
  /-- The host loads a program longer than the Word Store. -/
  | load {p : List Value} {rest : List HostCall} (resting : s.rs ≠ .running) (call : s.calls = .loadProgram (.sequence p) :: rest)
      (overflow : s.cfg.memorySize < (amendProgram p).length) : StepRefused s .loadOverflow
  /-- The host writes a cell there is not. -/
  | cell {i : Int} {v : Value} {rest : List HostCall} (resting : s.rs ≠ .running) (call : s.calls = .writeCell i v :: rest)
      (outside : inStore s.cfg i = false) : StepRefused s (.hostCellAbsent i)

/-- A call that is served has a next state, or is refused for one of three reasons (R40). -/
theorem serve_outcome {s : State} {c : HostCall} {rest : List HostCall} (hr : s.rs ≠ .running) (hc : s.calls = c :: rest) :
    StepSafe s ∨ ∃ r, step s = .refused r ∧ StepRefused s r := by
  unfold StepSafe
  rw [step_serves hr hc]
  cases c with
  | loadProgram arg =>
    rcases loadProgram_cases arg (s.setCalls rest) with ⟨rfl, h⟩ | ⟨p, rfl, -, h⟩ | ⟨p, rfl, hlen, h⟩ <;>
      simp only [performCall, loadCall, h]
    · exact .inl ⟨_, rfl⟩
    · exact .inl ⟨_, rfl⟩
    · exact .inr ⟨_, rfl, .load hr hc hlen⟩
  | writeReg r v => exact .inl ⟨_, rfl⟩
  | writeCell i v =>
    simp only [performCall, hostWriteCell, State.setCalls_cfg]
    by_cases hin : inStore s.cfg i = true
    · exact .inl ⟨_, if_pos hin⟩
    · exact .inr ⟨_, if_neg hin, .cell hr hc (by simpa using hin)⟩
  | run =>
    simp only [performCall, runEntry, State.setCalls_rs]
    by_cases hf : s.rs = .faulted
    · exact .inr ⟨_, if_pos hf, .run hf hc⟩
    · exact .inl ⟨_, if_neg hf⟩

/-- A step has a next state, or is refused for one of four reasons. -/
theorem step_outcome (s : State) : StepSafe s ∨ ∃ r, step s = .refused r ∧ StepRefused s r := by
  by_cases hrun : s.rs = .running
  · rcases run_ends hrun rfl with ⟨-, h⟩ | ⟨k, -, -, h⟩ | ⟨p, k, -, -, -, -, h⟩ | ⟨p, w, hf, h⟩
    · obtain ⟨t, ht⟩ := awaitReply_next s
      exact .inl ⟨t, h.trans ht⟩
    · exact .inl ⟨_, h⟩
    · exact .inl ⟨_, h⟩
    · rcases exec_outcome (decodeWord w) (fetch p s) with ⟨t, ht⟩ | ⟨a, hi, he, hin, hx⟩
      · exact .inl ⟨t, h.trans ht⟩
      · exact .inr ⟨_, h.trans hx, .store hf hi (by simpa using he) (by simpa using hin)⟩
  · rcases step_cases (s := s) rfl with ⟨-, -, h⟩ | ⟨c, rest, hr, hc, -⟩ | ⟨h, -⟩ | ⟨h, -⟩
    · exact .inl ⟨s, h⟩
    · exact serve_outcome hr hc
    · exact absurd h hrun
    · exact absurd h hrun

theorem stepRefused_of_step {s : State} {r : Refusal} (h : step s = .refused r) : StepRefused s r := by
  rcases step_outcome s with ⟨t, ht⟩ | ⟨r', hr, hs⟩
  · cases h.symm.trans ht
  · cases h.symm.trans hr
    exact hs

theorem step_ne_fault (s : State) (f : Fault) : step s ≠ .fault f := by
  intro h
  rcases step_outcome s with ⟨t, ht⟩ | ⟨r, hr, -⟩
  · cases h.symm.trans ht
  · cases h.symm.trans hr

/-- An address field outside the Word Store is past its end, since it is never negative (R75). -/
theorem memorySize_le_of_outside {c : Configuration} {a : Address} (h : inStore c a.index = false) : c.memorySize ≤ a.toNat := by
  have h0 := a.index_nonneg
  have hN := inStore_eq_false.1 h
  simp only [Address.index] at h0 hN
  omega

/-- Settles O47: the four reasons of `StepRefused`, and no fault as an answer (R59, R83, R121, R137). -/
theorem stepRefusesInFourWays : Obligations.StepRefusesInFourWays := by
  refine fun s => ⟨step_ne_fault s, fun r h => ?_⟩
  cases stepRefused_of_step h with
  | store fetches decodes unlogged outside =>
    exact .inl ⟨_, _, _, fetches, decodes, unlogged, memorySize_le_of_outside outside, rfl⟩
  | run faulted call => exact .inr (.inl ⟨faulted, by simp [call], rfl⟩)
  | load resting call overflow => exact .inr (.inr (.inl ⟨resting, ⟨_, by simp [call], overflow⟩, rfl⟩))
  | cell resting call outside => exact .inr (.inr (.inr ⟨resting, _, _, by rw [call]; rfl, outside, rfl⟩))

/-- Settles O48: of the four refusals only STORE's is a run's, and it needs `errorLogging` off and an address of at least N,
where an address field is below 256 (R57, R59). -/
theorem runsNeverStop : Obligations.RunsNeverStop := by
  intro s hrun hbig
  refine (step_outcome s).resolve_right fun ⟨r, _, hs⟩ => ?_
  cases hs with
  | @store p w a _ _ unlogged outside =>
    have hN := memorySize_le_of_outside outside
    have ha := a.isLt
    rcases hbig with hbig | hbig
    · omega
    · cases unlogged.symm.trans hbig
  | run faulted => cases hrun.symm.trans faulted
  | load resting => exact resting hrun
  | cell resting => exact resting hrun

/-! The check and the Word Store write. -/

/-- Settles O11: the two ways the check fails, and the pass of an access that does not fault (R53). -/
theorem addressingCheck : Obligations.AddressingCheck := fun c =>
  ⟨check_invalid c, fun z he hz => check_eq_fault.2 (.inr ⟨z, rfl, he, inStore_eq_false.2 hz, rfl⟩),
    fun _ _ h0 hN => check_pass_of (.inr (inStore_eq_true.2 ⟨h0, hN⟩)), fun _ he => check_pass_of (.inl he)⟩

/-- Settles O12: the two ways of a write, and a read after it (R59). -/
theorem wordStoreWrite : Obligations.WordStoreWrite := by
  refine fun z v s => ⟨fun h0 hN => ?_, fun hz => ?_⟩
  · refine ⟨s.setMem (Memory.write s.mem z.toNat v), if_pos (inStore_eq_true.2 ⟨h0, hN⟩), rfl, fun n => ?_⟩
    have hn : n = z.toNat ↔ (n : Int) = z := by omega
    simp [Memory.read_write, hn]
  · simp [memWrite, inStore_eq_false.2 hz]

/-! Frames. -/

/-- Settles O23: AF_OPERAND keeps everything but the run state, and a completed read writes `MAR`, `MDR`, `AC` and `PC`
(R61, R101, R107, R108, R122). -/
theorem frameLoadAddSubtract : Obligations.FrameLoadAddSubtract := by
  intro i a s t hi h
  rcases exec_reader_ends hi h with ⟨k, -, h⟩ | ⟨-, e, v, h⟩ <;> cases h <;> simp

/-- Settles O25: each end of INPUT's wait, and of OUTPUT (R110, R111, R122). -/
theorem frameInputOutput : Obligations.FrameInputOutput := by
  refine fun x s t => ⟨fun h => ?_, fun h => ?_⟩
  · rcases awaitReply_ends (s := (s.emit .inputRequest).setPending true) h with
      ⟨-, rfl⟩ | ⟨r, rest, -, -, hp, hc, hmar, hmdr, hmem, -⟩ | ⟨rest, -, -, rfl⟩
    · simp
    · exact ⟨⟨hc.mq, hc.ir, hmar, hmdr, hc.cfg⟩, ⟨hc.calls, hc.loadAnswers⟩, fun n => congrArg (Memory.read · n) hmem,
        .inl hc.rs, fun hw => absurd (hp.symm.trans hw) nofun⟩
    · simp [parseFault]
  · rcases exec_output_cases h with ⟨k, -, h⟩ | ⟨z, -, -, h⟩ <;> cases h <;> simp

/-- Settles O26: each of these words only advances, and HALT ends the run after that (R114, R115, R116). -/
theorem frameControlWords : Obligations.FrameControlWords := by
  intro i s t hi h
  rcases halt_or_noOp hi with rfl | hn
  · cases (exec_halt s).symm.trans h
    simp [haltRun_traceLog, advance_traceLog]
  · cases (exec_noOp hn s).symm.trans h
    simp [advance_traceLog]

/-! A STORE and the next fetch. -/

/-- A STORE that a cycle completes: its cell, its own word in `IR`, and a machine at the start of the next cycle (R67, R102). -/
theorem Fetches.store_completes {s t : State} {p w : Int} {a : Address} (hf : Fetches s p w) (hw : decodeWord w = .store a)
    (h : step s = .next t) :
    inStore s.cfg a.index = true ∧ readCell a.index t = s.ac ∧ t.ir = .int w ∧ t.pc = .int (p + 1) ∧
      t.cfg = s.cfg ∧ t.rs = .running ∧ t.inputPending = false := by
  have ⟨hrun, hnp, hpc, _, hread, _⟩ := hf
  rw [hf.step_eq, hw] at h
  rcases exec_store_cases h with ⟨k, hk, -⟩ | ⟨hin, h⟩ | ⟨-, -, h⟩
  · exact absurd (hf.operand_unfaulted (.inr (.inl hw))) (not_unfaulted_of_check (by simpa using hk))
  · have hin : inStore s.cfg a.index = true := by simpa using hin
    cases h
    refine ⟨hin, ?_, by simp [hread], by simp [hpc, nextPc], by simp, by simp [hrun], by simp [hnp]⟩
    rw [readCell_inside (by simpa using hin)]
    simp
  · cases h

/-- Settles O29: the completed STORE is a machine at the start of a cycle whose fetch reads the stored value (R67, R142). -/
theorem storeIsSeenByNextFetch : Obligations.StoreIsSeenByNextFetch := by
  intro s t p w a hf hw h
  obtain ⟨hin, hread, hir, hpc, hcfg, hrun, hnp⟩ := hf.store_completes hw h
  refine ⟨hin, hread, hir, hpc, fun v ha hv hu => ?_⟩
  rw [ha] at hin hread
  have hf' : Fetches t (p + 1) v :=
    fetches_iff.2 ⟨hrun, hnp, hpc, by rw [hcfg]; exact .inr hin, hread.trans hv, by rw [hcfg]; exact hu⟩
  exact ⟨hf', hf'.step_eq⟩

end Sys2Proof.Machine
end

section
/-!
SUPPORT. The Instruction Codec (30_encoding.md): the two fields of an encoded word, the opcode map read backwards, and which word
is the sentinel. Then the statements on the encoding.
-/

namespace Sys2Proof.Machine

/-! The fields of an encoded word. -/

theorem opcodeField_encodeFields (op a : Int) : opcodeField (encodeFields op a) = op := by
  simp only [opcodeField, encodeFields]
  omega

/-- The encoder keeps the bits of the address that the decoder reads (R71, R72). -/
theorem addressField_encodeFields (op a : Int) : addressField (encodeFields op a) = addressField a := by
  apply addressField_of_emod
  rw [addressField_index]
  simp only [encodeFields]
  omega

/-- The encoder's word selects the row of its opcode, with the address modulo 256 (R76, R77). -/
theorem decodeWord_encodeFields (op a : Int) : decodeWord (encodeFields op a) = instrOf op (addressField a) := by
  rw [decodeWord, opcodeField_encodeFields, addressField_encodeFields]

theorem encodeFields_of_fields (w : Int) : encodeFields (opcodeField w) (addressField w).index = w := by
  rw [addressField_index]
  simp only [encodeFields, opcodeField]
  omega

/-! The opcode map in both directions. -/

/-- The map gives back every term that stands for a word: the opcodes of the rows differ, a zero address makes opcode 15 the
sentinel, and a wide opcode is in no other row (R77, R78). -/
theorem instrOf_opcode_address {i : Instr} (h : i.wf = true) : instrOf i.opcode i.address = i := by
  cases i with
  | op15Nop x =>
    have hx : x ≠ 0#8 := by simpa [Instr.wf] using h
    exact if_neg hx
  | unknownWide op x =>
    have hop : op < 0 ∨ 16 ≤ op := by simpa [Instr.wf] using h
    exact instrOf_wide x hop
  | load | store | add | subtract | input | output | halt | unknown0 | unknown7 | unknown8 | unknown9 | unknown10 | unknown11 |
    unknown12 | unknown13 | unknown14 => rfl

/-- The map reaches only terms that stand for a word (R115, R116). -/
theorem instrOf_wf (op : Int) (a : Address) : (instrOf op a).wf = true := by
  by_cases hwide : op < 0 ∨ 16 ≤ op
  · simpa [instrOf_wide a hwide, Instr.wf] using hwide
  · obtain ⟨h0, h16⟩ : 0 ≤ op ∧ op < 16 := by omega
    by_cases ha : a = 0#8 <;> interval_cases op <;> simp [instrOf, Instr.wf, ha]

theorem decodeWord_encode {i : Instr} (h : i.wf = true) : decodeWord (encode i) = i := by
  rw [decodeWord, opcodeField_encode, addressField_encode, instrOf_opcode_address h]

theorem encode_decodeWord (w : Int) : encode (decodeWord w) = w := by
  rw [encode, decodeWord_opcode, decodeWord_address, encodeFields_of_fields]

theorem decode_encode {i : Instr} (h : i.wf = true) : decode (.int (encode i)) = .ok i :=
  congrArg Except.ok (decodeWord_encode h)

/-- Settles O1: the word's two fields are the instruction's, and the opcode map gives a well-formed term back (R71, R72, R77). -/
theorem decodeOfEncode : Obligations.DecodeOfEncode := fun _ h => ⟨decodeWord_encode h, decode_encode h⟩

/-- Settles O2: the decoded instruction carries both fields of its word, and they determine the word (R71, R72, R79). -/
theorem encodeOfDecode : Obligations.EncodeOfDecode := fun w => ⟨instrOf_wf _ _, encode_decodeWord w⟩

/-! The codec's two fields. -/

/-- Settles O3: neither field of an encoded word spills into the other (R76). -/
theorem codecFieldsRoundTrip : Obligations.CodecFieldsRoundTrip := by
  have address (op a : Int) : (addressField (encodeFields op a)).index = a % 256 := by
    rw [addressField_encodeFields, addressField_index]
  exact ⟨fun op a => ⟨opcodeField_encodeFields op a, address op a⟩,
    fun op a _ h0 h1 => (address op a).trans (Int.emod_eq_of_lt h0 h1)⟩

/-- Settles O4: the masked address lies below bit 8, so `|` adds it to the shifted opcode (R71). -/
theorem encoderShiftsAndMasks : Obligations.EncoderShiftsAndMasks := by
  refine ⟨fun op a => ⟨?_, rfl⟩, rfl, rfl, rfl⟩
  rw [land_255, lor_shiftLeft_8 _ _ (Int.emod_nonneg a (by decide)) (Int.emod_lt_of_pos a (by decide)), encodeFields]

/-- Settles O5: a shift right by 8 is the floor division by 256, and the mask the remainder, for either sign (R72). -/
theorem decoderShiftsAndMasks : Obligations.DecoderShiftsAndMasks := by
  refine ⟨fun w => ⟨(Int.shiftRight_eq_div_pow w 8).symm, rfl, ?_, addressField_index w, Address.index_nonneg _,
    Int.le_of_lt_add_one (Address.index_lt _), decodeWord_opcode w, decodeWord_address w⟩, rfl, rfl, fun w hw => ?_⟩
  · rw [addressField_index, land_255]
  · simp only [opcodeField]
    omega

/-! The sentinel, and the words without a handler. -/

/-- A well-formed instruction is the decoding of its own word alone. -/
theorem decodeWord_eq_iff {i : Instr} (h : i.wf = true) (w : Int) : decodeWord w = i ↔ w = encode i :=
  ⟨fun hw => by rw [← hw, encode_decodeWord], fun hw => by rw [hw, decodeWord_encode h]⟩

/-- The sentinel is one word (R78). -/
theorem decodeWord_eq_halt (w : Int) : decodeWord w = .halt ↔ w = 3840 := decodeWord_eq_iff (i := .halt) rfl w

/-- A word selects the row of its opcode field (R77). -/
theorem decodeWord_of_opcodeField {w op : Int} (h : opcodeField w = op) : decodeWord w = instrOf op (addressField w) :=
  congrArg (instrOf · _) h

/-- Every word of opcode 15 but the sentinel is the opcode-15 no-op (R115). -/
theorem decodeWord_op15Nop {w : Int} (h15 : opcodeField w = 15) (hw : w ≠ 3840) : decodeWord w = .op15Nop (addressField w) := by
  have hrow : decodeWord w = if addressField w = 0#8 then .halt else .op15Nop (addressField w) := decodeWord_of_opcodeField h15
  by_cases ha : addressField w = 0#8
  · rw [if_pos ha, decodeWord_eq_halt] at hrow
    exact absurd hrow hw
  · rwa [if_neg ha] at hrow

/-- A word of an opcode without a handler, the sentinel apart, only ends its cycle (R77, R89). -/
theorem exec_decodeWord_noOp {w : Int} (hop : opcodeField w ∉ [1, 2, 3, 4, 5, 6]) (hw : w ≠ 3840) (s : State) :
    exec (decodeWord w) s = .next (advance s) := by
  rw [← decodeWord_opcode] at hop
  rcases halt_or_noOp hop with hhalt | hn
  · exact absurd ((decodeWord_eq_halt w).1 hhalt) hw
  · exact exec_noOp hn s

/-- Settles O6: each row is the opcode map at its opcode; the rows of opcode 15 and of the wide words have their own
lemmas (R77). -/
theorem opcodeMap : Obligations.OpcodeMap := fun w =>
  ⟨decodeWord_of_opcodeField, decodeWord_of_opcodeField, decodeWord_of_opcodeField, decodeWord_of_opcodeField,
    decodeWord_of_opcodeField, decodeWord_of_opcodeField, (decodeWord_eq_halt w).2,
    fun h0 h1 => decodeWord_op15Nop (by simp only [opcodeField]; omega) (by omega), decodeWord_of_opcodeField,
    decodeWord_of_opcodeField, decodeWord_of_opcodeField, decodeWord_of_opcodeField, decodeWord_of_opcodeField,
    decodeWord_of_opcodeField, decodeWord_of_opcodeField, decodeWord_of_opcodeField, decodeWord_of_opcodeField,
    instrOf_wide _, exec_decodeWord_noOp⟩

/-- INPUT's wait ends no run but by a fault (R110). -/
theorem awaitReply_rs {s t : State} (h : awaitReply s = .next t) : t.rs = s.rs ∨ t.rs = .faulted := by
  rcases awaitReply_ends h with ⟨-, rfl⟩ | ⟨r, rest, -, -, -, hc, -⟩ | ⟨rest, -, -, rfl⟩
  · exact .inl rfl
  · exact .inl hc.rs
  · exact .inr rfl

/-- Of the instructions only HALT ends a run `Halted` (R93, R114). -/
theorem exec_halted_iff {i : Instr} {s t : State} (hrun : s.rs = .running) (h : exec i s = .next t) :
    t.rs = .halted ↔ i = .halt := by
  rcases exec_ends h with ⟨-, hi, hc, -⟩ | ⟨hi, rfl⟩ | ⟨x, rfl, ha⟩ | ⟨k, a, -, hi, rfl⟩ | ⟨k, x, -, rfl, rfl⟩
  · simp [hc.rs, hrun, hi]
  · simp [hi]
  · rcases awaitReply_rs ha with hrs | hrs <;> simp [hrs, hrun]
  · rcases hi with rfl | rfl | rfl | rfl <;> simp
  · simp

/-- Settles O7: HALT alone ends a run `Halted`, and 3840 is the one word that decodes to it (R78, R93). -/
theorem sentinelIsOneWord : Obligations.SentinelIsOneWord := by
  refine ⟨rfl, rfl, rfl, decodeWord_eq_halt, fun w h15 hw => ⟨_, decodeWord_op15Nop h15 hw⟩, fun s t p w hf h => ?_⟩
  have ⟨hrun, _⟩ := hf
  rw [hf.step_eq] at h
  rw [exec_halted_iff (by simpa using hrun) h, decodeWord_eq_halt]

/-- Settles O8: each function is the encoder at its opcode (R81). -/
theorem assemblerApiWords : Obligations.AssemblerApiWords :=
  ⟨fun a => ⟨⟨rfl, rfl, rfl, rfl⟩, decodeWord_encodeFields 1 a, decodeWord_encodeFields 2 a, decodeWord_encodeFields 3 a,
    decodeWord_encodeFields 4 a⟩, rfl, rfl, rfl⟩

/-! The use of the address field. -/

/-- The words with a cell operand: it is their address field (R75, R77). -/
theorem hasOperand_decodeWord {w : Int} (h : opcodeField w ∈ [1, 2, 3, 4]) : HasOperand (decodeWord w) (addressField w) := by
  simp only [List.mem_cons, List.not_mem_nil, or_false] at h
  exact h.imp decodeWord_of_opcodeField (.imp decodeWord_of_opcodeField (.imp decodeWord_of_opcodeField decodeWord_of_opcodeField))

/-- Settles O9: the operand's index is the address field, and INPUT, OUTPUT and the words without a handler have meanings that do
not read theirs (R75). -/
theorem addressFieldUse : Obligations.AddressFieldUse := by
  refine ⟨fun w s t hop hu h => ?_, fun w v hwv hop hw hv s => ?_⟩
  · rw [← addressField_index] at hu ⊢
    rcases exec_operand_mar (hasOperand_decodeWord hop) h with ⟨hnu, -⟩ | ⟨-, hmar⟩
    · exact absurd hu hnu
    · exact hmar
  · by_cases h5 : opcodeField w = 5
    · rw [decodeWord_of_opcodeField h5, decodeWord_of_opcodeField (hwv.symm.trans h5)]
      rfl
    · by_cases h6 : opcodeField w = 6
      · rw [decodeWord_of_opcodeField h6, decodeWord_of_opcodeField (hwv.symm.trans h6)]
        rfl
      · have hno : opcodeField w ∉ [1, 2, 3, 4, 5, 6] := by simpa [h5, h6] using hop
        rw [exec_decodeWord_noOp hno hw, exec_decodeWord_noOp (hwv ▸ hno) hv]

/-! The decode fault. -/

/-- A cycle whose fetched value fails the check takes AF_DECODE on the state after the fetch (R88). -/
theorem step_decodeFault {s : State} {p : Int} {k : CheckKind} (hrun : s.rs = .running) (hp : s.inputPending = false)
    (hpc : s.pc = .int p) (hu : Unfaulted s.cfg p) (hk : check s.cfg (readCell p s) = .fault k) :
    step s = .next (raiseFault (.afDecode k) (.value (readCell p s)) (fetch p s)) := by
  simp [step_running hrun hp, cycle, hpc, check_pass_of hu, decodeAndExecute, hk]

/-- What a fault leaves that is taken right after the fetch: `MAR` and `IR` written, and a free value drawn where the fetch read
outside the Word Store (R87, R121). -/
theorem raiseFault_fetch (f : Fault) (o : Offender) (p : Int) (s : State) :
    raiseFault f o (fetch p s) = { s with
      mar := .int p, ir := readCell p s, rs := .faulted, draws := (fetch p s).draws, events := s.events ++ [.diag f o] } := by
  apply State.ext <;> simp

/-- Settles O32: `Invalid` fails the check always and an integer outside the Word Store with `errorLogging`, and the fault is taken
before the word is decoded (R73, R88). -/
theorem decodeFault : Obligations.DecodeFault := by
  intro s p hrun hp hpc hu
  refine ⟨fun hread => ?_, fun w hread he hw => ?_⟩
  · have hk : check s.cfg (readCell p s) = .fault .notInteger := by rw [hread, check_invalid]
    rw [step_decodeFault hrun hp hpc hu hk, raiseFault_fetch, hread]
  · have hk : check s.cfg (readCell p s) = .fault .outOfRange :=
      check_eq_fault.2 (.inr ⟨w, hread, he, inStore_eq_false.2 hw, rfl⟩)
    rw [step_decodeFault hrun hp hpc hu hk, raiseFault_fetch, hread]

/-! Sample words. -/

/-- Settles O10: each integer is the word of its instruction, which is well formed (R71, R77). -/
theorem sampleWordsDecode : Obligations.SampleWordsDecode := by
  have negative : encode (.unknownWide (-2) 255#8) = -257 := by decide
  exact ⟨decode_encode (i := .load 10#8) rfl, decode_encode (i := .load 255#8) rfl, decode_encode (i := .store 12#8) rfl,
    decode_encode (i := .add 11#8) rfl, decode_encode (i := .subtract 11#8) rfl, decode_encode (i := .input 1#8) rfl,
    decode_encode (i := .output 0#8) rfl, decode_encode (i := .halt) rfl, decode_encode (i := .op15Nop 1#8) rfl,
    decode_encode (i := .unknown0 255#8) rfl, decode_encode (i := .unknown7 0#8) rfl,
    decode_encode (i := .unknownWide 16 0#8) rfl, negative ▸ decode_encode rfl, rfl⟩

end Sys2Proof.Machine
end

section
/-!
SUPPORT. What a step of a run shows (40_cycle.md): the events it appends, which end they belong to, and the host's queues, said once.
Then the statements on the cycle: the fetch, its fault, the moves of `PC`, the halt, the debug hook and whole runs.
-/

namespace Sys2Proof.Machine

/-! What a step of a run shows. -/

/-- An event a handler appends before its cycle ends: a trace entry, or INPUT's request or reply (10_state.md R37). -/
def HandlerEvent (e : Event) : Prop := (∃ x, e = .trace x) ∨ e = .inputRequest ∨ ∃ r, e = .inputReply r

/-- The end of a step of a run, by the events it appends last. -/
inductive RunEnd (s t : State) : List Event → Prop
  /-- INPUT waits, with no reply there. -/
  | waits (pc : t.pc = s.pc) (rs : t.rs = s.rs) (pending : t.inputPending = true) (noReply : t.replies = []) : RunEnd s t []
  /-- The cycle completes, with the debug hook. -/
  | completes (pc : t.pc = nextPc s.pc) (rs : t.rs = s.rs) (pending : t.inputPending = false) : RunEnd s t (debugShown s.cfg t.pc)
  /-- The cycle completes on the sentinel. -/
  | halts (pc : t.pc = nextPc s.pc) (rs : t.rs = .halted) : RunEnd s t (debugShown s.cfg t.pc ++ [.done])
  /-- A fault is taken; it is AF_FETCH only where the check on `PC` fails. -/
  | faults {f : Fault} (o : Offender) (pc : t.pc = s.pc) (rs : t.rs = .faulted)
      (fetchCheck : ∀ k, f = .afFetch k → check s.cfg s.pc = .fault k) : RunEnd s t [.diag f o]

/-- What a step of a run leaves of what the host sees: its calls and their answers as they were, and the event history longer by a
handler's events and then those of the end. -/
structure RunShows (s t : State) : Prop where
  calls : t.calls = s.calls
  loadAnswers : t.loadAnswers = s.loadAnswers
  events : ∃ l last, t.events = s.events ++ l ++ last ∧ (∀ e ∈ l, HandlerEvent e) ∧ RunEnd s t last

/-- What is shown from `u` is shown from `s`, where `u` is `s` with handler events appended and data changed. -/
theorem RunShows.of_prelude {s u t : State} {l : List Event} (h : RunShows u t) (pc : u.pc = s.pc) (rs : u.rs = s.rs)
    (cfg : u.cfg = s.cfg) (calls : u.calls = s.calls) (loadAnswers : u.loadAnswers = s.loadAnswers)
    (events : u.events = s.events ++ l) (hl : ∀ e ∈ l, HandlerEvent e) : RunShows s t where
  calls := h.calls.trans calls
  loadAnswers := h.loadAnswers.trans loadAnswers
  events := by
    obtain ⟨l', last, hev, hl', hend⟩ := h.events
    refine ⟨l ++ l', last, by simp [hev, events], fun e he => (List.mem_append.1 he).elim (hl e) (hl' e), ?_⟩
    cases hend with
    | waits pc' rs' pending noReply => exact .waits (pc'.trans pc) (rs'.trans rs) pending noReply
    | completes pc' rs' pending => exact cfg ▸ .completes (pc ▸ pc') (rs'.trans rs) pending
    | halts pc' rs' => exact cfg ▸ .halts (pc ▸ pc') rs'
    | faults o pc' rs' hk => exact .faults o (pc'.trans pc) rs' (cfg ▸ pc ▸ hk)

theorem Completes.runShows {s t : State} (hc : Completes s t) (hp : t.inputPending = false) : RunShows s t := by
  obtain ⟨l, hev, hl⟩ := hc.events
  exact ⟨hc.calls, hc.loadAnswers, l, _, hc.pc ▸ hev, hl, .completes hc.pc hc.rs hp⟩

theorem haltRun_runShows (s : State) : RunShows s (haltRun (advance s)) :=
  ⟨by simp, by simp, [], _, by simp, by simp, .halts (by simp) rfl⟩

theorem raiseFault_runShows {f : Fault} (o : Offender) {s : State} (hk : ∀ k, f = .afFetch k → check s.cfg s.pc = .fault k) :
    RunShows s (raiseFault f o s) :=
  ⟨rfl, rfl, [], _, by simp, by simp, .faults o rfl rfl hk⟩

theorem runShows_of_fetch {p : Int} {s t : State} (h : RunShows (fetch p s) t) : RunShows s t :=
  h.of_prelude (l := []) (by simp) (by simp) (by simp) (by simp) (by simp) (by simp) (by simp)

theorem runShows_of_awaitReply {s t : State} (hp : s.inputPending = true) (h : awaitReply s = .next t) : RunShows s t := by
  rcases awaitReply_ends h with ⟨hq, rfl⟩ | ⟨r, rest, -, -, hpend, hc, -⟩ | ⟨rest, -, -, rfl⟩
  · exact ⟨rfl, rfl, [], _, by simp, by simp, .waits rfl rfl hp hq⟩
  · exact (hc.runShows hpend).of_prelude (l := []) rfl rfl rfl rfl rfl (by simp) (by simp)
  · exact (raiseFault_runShows (f := .inputParse) _ nofun).of_prelude (l := [.inputReply .unparseable]) rfl rfl rfl rfl rfl rfl
      (by simp [HandlerEvent])

theorem runShows_of_exec {i : Instr} {s t : State} (hp : s.inputPending = false) (h : exec i s = .next t) : RunShows s t := by
  rcases exec_ends h with ⟨-, -, hc, hpend, -⟩ | ⟨-, rfl⟩ | ⟨x, -, ha⟩ | ⟨k, a, -, -, rfl⟩ | ⟨k, x, -, -, rfl⟩
  · exact hc.runShows (hpend.trans hp)
  · exact haltRun_runShows s
  · exact (runShows_of_awaitReply (s := (s.emit .inputRequest).setPending true) rfl ha).of_prelude (l := [.inputRequest])
      rfl rfl rfl rfl rfl rfl (by simp [HandlerEvent])
  · exact raiseFault_runShows _ nofun
  · exact raiseFault_runShows _ nofun

theorem runShows_of_step {s t : State} (hrun : s.rs = .running) (h : step s = .next t) : RunShows s t := by
  rcases run_ends hrun h with ⟨hp, h⟩ | ⟨k, -, hk, h⟩ | ⟨p, k, hp, -, -, -, h⟩ | ⟨p, w, hf, h⟩
  · exact runShows_of_awaitReply hp h.symm
  · cases h
    exact raiseFault_runShows _ fun k' hk' => by cases hk'; exact hk
  · cases h
    exact runShows_of_fetch (raiseFault_runShows _ nofun)
  · have ⟨_, hp, _⟩ := hf
    exact runShows_of_fetch (runShows_of_exec (by simpa using hp) h.symm)

/-- An event that no handler appends is counted once more for each time the end of the step appends it. -/
theorem RunShows.count_eq {s t : State} (h : RunShows s t) {e : Event} (he : ¬ HandlerEvent e) :
    ∃ last, RunEnd s t last ∧ t.events.count e = s.events.count e + last.count e := by
  obtain ⟨l, last, hev, hl, hend⟩ := h.events
  have hzero : l.count e = 0 := List.count_eq_zero.2 fun hmem => he (hl e hmem)
  exact ⟨last, hend, by simp [hev, List.count_append, hzero]⟩

/-! The fetch. -/

/-- The fetch as one update: `MAR`, `IR` and the count of draws (R87). -/
theorem fetch_eq (p : Int) (s : State) :
    fetch p s = { s with mar := .int p, ir := readCell p s, draws := (fetch p s).draws } := by
  apply State.ext <;> simp

theorem fetch_traceLog (p : Int) (s : State) : (fetch p s).traceLog = s.traceLog := by simp [State.traceLog]

/-- Settles O30: `Fetches` is what the checks of the cycle ask, and the fetch is one update of `MAR` and `IR` (R85, R87, R88, R89). -/
theorem stepRunsDecoded : Obligations.StepRunsDecoded := by
  intro s p w hf
  obtain ⟨-, -, -, -, hread, -⟩ := fetches_iff.1 hf
  refine ⟨rfl, hf.step_eq, hread ▸ fetch_eq p s, fun hin => ⟨?_, ?_⟩⟩
  · rw [← hread, readCell_inside hin]
  · rw [fetch_draws, afterRead_draws, if_pos hin]

/-- A cycle whose `PC` fails the check takes AF_FETCH on the state as it was (R86). -/
theorem step_fetchFault {s : State} {v : Value} {k : CheckKind} (hrun : s.rs = .running) (hp : s.inputPending = false)
    (hpc : s.pc = v) (hk : check s.cfg v = .fault k) : step s = .next (raiseFault (.afFetch k) (.value v) s) := by
  simp [step_running hrun hp, cycle, hpc, hk]

/-- A step of a run that appends AF_FETCH has a `PC` that fails the check (R86). -/
theorem RunShows.check_of_fetchFault {s t : State} (h : RunShows s t) {k : CheckKind} {o : Offender}
    (hlast : t.events.getLast? = some (.diag (.afFetch k) o)) (hne : s.events ≠ t.events) : check s.cfg s.pc = .fault k := by
  obtain ⟨l, last, hev, hl, hend⟩ := h.events
  have hmem : Event.diag (.afFetch k) o ∈ l ++ last := by
    have happ : l ++ last ≠ [] := fun h0 => hne (by rw [hev, List.append_assoc, h0, List.append_nil])
    rw [hev, List.append_assoc, List.getLast?_append_of_ne_nil _ happ] at hlast
    exact List.mem_of_getLast? hlast
  rcases List.mem_append.1 hmem with hm | hm
  · exact absurd (hl _ hm) (by simp [HandlerEvent])
  · cases hend with
    | waits => simp at hm
    | completes => cases mem_debugShown hm
    | halts =>
      rcases List.mem_append.1 hm with hm | hm
      · cases mem_debugShown hm
      · simp at hm
    | faults o' _ _ hk =>
      simp only [List.mem_singleton, Event.diag.injEq] at hm
      exact hk k hm.1.symm

/-- Settles O31: the check fails in two ways, and only a failed check on `PC` appends AF_FETCH (R53, R86). -/
theorem fetchFault : Obligations.FetchFault := by
  refine fun s hrun hp => ⟨fun hpc => ?_, fun p hpc he hout => ?_, fun t h ⟨k, o, hlast⟩ hne => ?_⟩
  · exact step_fetchFault hrun hp hpc (check_invalid s.cfg)
  · exact step_fetchFault hrun hp hpc (check_eq_fault.2 (.inr ⟨p, rfl, he, inStore_eq_false.2 hout, rfl⟩))
  · rcases check_eq_fault.1 ((runShows_of_step hrun h).check_of_fetchFault hlast hne) with ⟨hpc, -⟩ | ⟨p, hpc, he, hin, -⟩
    · exact .inl hpc
    · exact .inr ⟨he, p, hpc, inStore_eq_false.1 hin⟩

/-! The moves of `PC`. -/

/-- Settles O33: each end of a step of a run leaves `PC` or advances it, and only an integer `PC` starts a cycle (R95). -/
theorem pcMovesByOneOrStays : Obligations.PcMovesByOneOrStays := by
  intro s t hrun h
  cases runStep_of_step hrun h with
  | waits pending => exact .inl ⟨rfl, .inr ⟨hrun, pending⟩⟩
  | requests => exact .inl ⟨by simp, .inr ⟨by simpa using hrun, rfl⟩⟩
  | completes _ origin pc rs =>
    refine .inr ⟨pc, .inl rs, fun hp => ?_⟩
    obtain ⟨p, hpc⟩ := origin.resolve_left (by simp [hp])
    exact ⟨p, hpc, by rw [pc, hpc, nextPc]⟩
  | @halts p w fetches =>
    obtain ⟨-, -, hpc, -⟩ := fetches
    exact .inr ⟨by simp, .inr rfl, fun _ => ⟨p, hpc, by simp [hpc, nextPc]⟩⟩
  | faults _ _ _ pc => exact .inl ⟨pc, .inl rfl⟩

/-! The halt. -/

theorem Fetches.halted_iff {s t : State} {p w : Int} (hf : Fetches s p w) (h : step s = .next t) :
    t.rs = .halted ↔ w = 3840 := by
  obtain ⟨-, -, -, -, -, halted⟩ := sentinelIsOneWord
  exact halted s t p w hf h

/-- A cycle that fetches the sentinel advances and ends the run (R93). -/
theorem Fetches.step_sentinel {s : State} {p : Int} (hf : Fetches s p 3840) :
    step s = .next (haltRun (advance (fetch p s))) := by
  rw [hf.step_eq, (decodeWord_eq_halt 3840).2 rfl, exec_halt]

/-- Settles O34: of the ends of a step of a run only the sentinel's is `Halted`, and it alone appends the completion event (R93). -/
theorem haltsOnTheSentinelAlone : Obligations.HaltsOnTheSentinelAlone := by
  refine fun s t hrun h => ⟨⟨fun ht => ?_, fun ⟨p, hf⟩ => (hf.halted_iff h).2 rfl⟩, fun p hf => ?_, fun ht => ?_⟩
  · cases runStep_of_step hrun h with
    | waits | requests => exact absurd ht (by simp [hrun])
    | completes _ _ _ rs => cases rs.symm.trans ht
    | @halts p w fetches => exact ⟨p, (fetches.halted_iff h).1 rfl ▸ fetches⟩
    | faults => cases ht
  · have ⟨_, _, hpc, _⟩ := hf
    cases hf.step_sentinel.symm.trans h
    simp [hpc, nextPc]
  · obtain ⟨last, hend, hcount⟩ := (runShows_of_step hrun h).count_eq (e := .done) (by simp [HandlerEvent])
    have hlast : Event.done ∉ last := by
      cases hend with
      | waits => simp
      | completes => exact fun hm => nomatch mem_debugShown hm
      | halts _ rs => exact absurd rs ht
      | faults => simp
    rw [hcount, List.count_eq_zero.2 hlast, Nat.add_zero]

/-! The option `debug`. -/

/-- Two states that a relabelling makes one have outcomes that it makes one, where it keeps `errorLogging`. -/
theorem Relabelling.step_congr {g : Configuration → Configuration} {d : List Event → List Event} (h : Relabelling g d)
    (hg : ∀ c, (g c).errorLogging = c.errorLogging) {s s' : State} (hs : s'.relabel g d = s.relabel g d) :
    mapNext (State.relabel g d) (step s') = mapNext (State.relabel g d) (step s) := by
  rw [← h.step_relabel (.inl (hg _)), ← h.step_relabel (.inl (hg _)), hs]

/-- The configuration with `debug` off. -/
def debugOff (c : Configuration) : Configuration := { c with debug := false }

/-- The events that are no debug events, in order. -/
def withoutDebug (l : List Event) : List Event := l.filter fun e => match e with
  | .debug _ => false
  | _ => true

theorem withoutDebug_append (l m : List Event) : withoutDebug (l ++ m) = withoutDebug l ++ withoutDebug m :=
  List.filter_append ..

theorem withoutDebug_tracesShown (c : Configuration) (e : TraceEntry) : withoutDebug (tracesShown c [e]) = tracesShown c [e] := by
  unfold tracesShown
  split <;> rfl

theorem withoutDebug_debugShown (c : Configuration) (v : Value) : withoutDebug (debugShown c v) = [] := by
  unfold debugShown
  split <;> rfl

theorem withoutDebug_singleton {e : Event} (he : ∀ v, e ≠ .debug v) : withoutDebug [e] = [e] := by
  cases e with
  | debug v => exact absurd rfl (he v)
  | trace | inputRequest | inputReply | diag | done => rfl

theorem relabelling_undebugged : Relabelling debugOff withoutDebug where
  memorySize _ := rfl
  parseTo _ := rfl
  emit l e _ he := by rw [withoutDebug_append, withoutDebug_singleton he]
  trace c l e := by
    rw [withoutDebug_append, withoutDebug_tracesShown]
    rfl
  debug c l v := by
    rw [withoutDebug_append, withoutDebug_debugShown]
    rfl

theorem dropDebug_eq_relabel (s : State) : s.dropDebug = (s.relabel debugOff withoutDebug).withDebug s.cfg.debug := rfl

/-- The machine without `debug` and its events steps alike under either setting (R92). -/
theorem mapNext_relabel_step_withDebug (b : Bool) (s : State) :
    mapNext (State.relabel debugOff withoutDebug) (step (s.withDebug b)) =
      mapNext (State.relabel debugOff withoutDebug) (step s) :=
  relabelling_undebugged.step_congr (fun _ => rfl) rfl

theorem step_withDebug_next {s t : State} (b : Bool) (h : step s = .next t) :
    ∃ u, step (s.withDebug b) = .next u ∧ u.dropDebug = (t.withDebug b).dropDebug := by
  have hd := mapNext_relabel_step_withDebug b s
  rw [h] at hd
  obtain ⟨u, hu, hut⟩ := mapNext_eq_next hd
  have hdebug : u.cfg.debug = b := by rw [step_cfg hu]; rfl
  refine ⟨u, hu, ?_⟩
  rw [dropDebug_eq_relabel, hut, hdebug]
  rfl

theorem step_withDebug_refused {s : State} {r : Refusal} (b : Bool) (h : step s = .refused r) :
    step (s.withDebug b) = .refused r := by
  have hd := mapNext_relabel_step_withDebug b s
  rw [h] at hd
  exact mapNext_eq_refused hd

theorem not_handlerEvent_debug (v : Value) : ¬ HandlerEvent (.debug v) := by simp [HandlerEvent]

/-- With `debug` on, a step of a run that moves `PC` has advanced it, and the hook has shown it (R92). -/
theorem step_debugged_count {s t : State} (hd : s.cfg.debug = true) (hrun : s.rs = .running) (h : step s = .next t)
    (hpc : t.pc ≠ s.pc) : t.events.count (.debug t.pc) = s.events.count (.debug t.pc) + 1 := by
  obtain ⟨last, hend, hcount⟩ := (runShows_of_step hrun h).count_eq (not_handlerEvent_debug t.pc)
  rw [hcount]
  cases hend with
  | waits pc => exact absurd pc hpc
  | completes => simp [debugShown, hd]
  | halts => simp [debugShown, hd]
  | faults _ pc => exact absurd pc hpc

/-- With `debug` off no step appends a debug event (R92). -/
theorem step_undebugged_count {s t : State} (hd : s.cfg.debug = false) (h : step s = .next t) (v : Value) :
    t.events.count (.debug v) = s.events.count (.debug v) := by
  by_cases hrun : s.rs = .running
  · obtain ⟨last, hend, hcount⟩ := (runShows_of_step hrun h).count_eq (not_handlerEvent_debug v)
    rw [hcount]
    cases hend <;> simp [debugShown, hd]
  · obtain ⟨hev, -⟩ := resting_step_frame hrun h
    rw [hev]

/-- Settles O45: turning `debug` off and dropping its events is a relabelling, and the hook is the one place that appends
them (R92). -/
theorem debugOnlyEmits : Obligations.DebugOnlyEmits := fun s b =>
  ⟨fun _ h => step_withDebug_next b h, fun _ h => step_withDebug_refused b h,
    fun _ h hrun hpc => step_debugged_count (s := s.withDebug true) rfl hrun h hpc,
    fun _ v h => step_undebugged_count (s := s.withDebug false) rfl h v⟩

/-! The run entry point. -/

/-- Settles O50: Run's two answers, and the host's queues as a step of a run leaves them (R83). -/
theorem runEntry_spec : Obligations.RunEntry := by
  refine fun s rest => ⟨fun hf hc => ?_, fun hr hc => ?_, fun t hrun h => ?_⟩
  · rw [step_serves (by simp [hf]) hc]
    exact if_pos hf
  · have ⟨hnr, hnf⟩ : s.rs ≠ .running ∧ s.rs ≠ .faulted := by rcases hr with hr | hr <;> simp [hr]
    rw [step_serves hnr hc]
    exact if_neg hnf
  · have shows := runShows_of_step hrun h
    exact ⟨shows.calls, shows.loadAnswers⟩

/-! Whole runs. -/

theorem core_run_succ_of_next {s t : State} (h : step s = .next t) (k : Nat) :
    Host.Core.run core (k + 1) s = Host.Core.run core k t := by
  rw [core_run_succ, h]

/-- A run of `k + 1` steps that has a next state is a first step that has one, and a run of `k`. -/
theorem step_of_core_run_succ {k : Nat} {s t : State} (h : Host.Core.run core (k + 1) s = .next t) :
    ∃ u, step s = .next u ∧ Host.Core.run core k u = .next t := by
  rw [core_run_succ] at h
  cases hs : step s with
  | next u => exact ⟨u, rfl, by simpa [hs] using h⟩
  | fault r => simp [hs] at h
  | refused r => simp [hs] at h

/-- A machine that steps to itself runs to itself. -/
theorem core_run_of_step_self {s : State} (h : step s = .next s) (k : Nat) : Host.Core.run core k s = .next s := by
  induction k with
  | zero => rfl
  | succ k ih => rw [core_run_succ_of_next h, ih]

/-- Outside a run and without a call the machine rests. -/
theorem step_rests {s : State} (hr : s.rs ≠ .running) (hc : s.calls = []) : step s = .next s := by
  rw [step_resting hr, serveHost, hc]

/-- Settles O58: by induction on the steps. A completed cycle adds one to `PC`; after a halt, a fault, or a wait that finds no
reply, the machine stands still (R39, R95, R96). -/
theorem runIsSequential : Obligations.RunIsSequential := by
  intro k
  induction k with
  | zero =>
    intro s t p _ _ hpc h
    cases h
    exact ⟨0, le_rfl, by simpa using hpc, fun _ _ => rfl⟩
  | succ k ih =>
    intro s t p hrun hcalls hpc h
    obtain ⟨u, hu, h⟩ := step_of_core_run_succ h
    have shows := runShows_of_step hrun hu
    have hucalls : u.calls = [] := shows.calls.trans hcalls
    have stands : step u = .next u → t = u := fun hself => by
      cases (core_run_of_step_self hself k).symm.trans h
      rfl
    obtain ⟨l, last, -, -, hend⟩ := shows.events
    cases hend with
    | waits pc rs pending noReply =>
      obtain rfl := stands ((onlyInputWaits u (rs.trans hrun)).2 ⟨pending, noReply⟩)
      exact ⟨0, by omega, by simp [pc, hpc], fun _ hp => by cases pending.symm.trans hp⟩
    | completes pc rs =>
      obtain ⟨j, hj, htpc, hk⟩ := ih u t (p + 1) (rs.trans hrun) hucalls (by rw [pc, hpc, nextPc]) h
      refine ⟨j + 1, by omega, ?_, fun hr hp => by rw [hk hr hp]⟩
      rw [htpc]
      congr 1
      omega
    | halts pc rs =>
      obtain rfl := stands (step_rests (by simp [rs]) hucalls)
      exact ⟨1, by omega, by rw [pc, hpc]; rfl, fun hr => by cases rs.symm.trans hr⟩
    | faults _ pc rs =>
      obtain rfl := stands (step_rests (by simp [rs]) hucalls)
      exact ⟨0, by omega, by simp [pc, hpc], fun hr => by cases rs.symm.trans hr⟩

/-- A run at the start of a cycle inside the Word Store whose cell passes the check fetches it. -/
theorem fetches_of_read {s : State} {p : Nat} {w : Int} (hrun : s.rs = .running) (hp : s.inputPending = false)
    (hpc : s.pc = .int p) (hin : p < s.cfg.memorySize) (hread : Memory.read s.mem p = .int w) (hw : Unfaulted s.cfg w) :
    Fetches s p w := by
  have hstore : inStore s.cfg p = true := inStore_eq_true.2 (by omega)
  exact fetches_iff.2 ⟨hrun, hp, hpc, .inr hstore, by simpa [readCell_inside hstore] using hread, hw⟩

/-- Settles O59: by induction on the zero cells, each a no-op whose cycle moves `PC` and nothing else that the rest of the run
reads (R96, R116, R147). -/
theorem zeroCellsRunToTheHalt : Obligations.ZeroCellsRunToTheHalt := by
  intro m
  induction m with
  | zero =>
    intro s p hrun hp hpc hin hel _ hhalt
    have hf : Fetches s p 3840 :=
      fetches_of_read hrun hp hpc hin hhalt (hel.imp_right fun hN => inStore_eq_true.2 (by omega))
    obtain ⟨-, -, -, -, hread, -⟩ := fetches_iff.1 hf
    refine ⟨_, core_run_succ_of_next hf.step_sentinel 0, ?_⟩
    simp [hpc, nextPc, hread, haltRun_traceLog, advance_traceLog, fetch_traceLog]
  | succ m ih =>
    intro s p hrun hp hpc hin hel hzero hhalt
    have hf : Fetches s p 0 := fetches_of_read hrun hp hpc (by omega) (hzero p le_rfl (by omega))
      (.inr (inStore_eq_true.2 (by omega)))
    have hstep : step s = .next (advance (fetch p s)) := by
      rw [hf.step_eq, exec_decodeWord_noOp (by decide) (by decide)]
    have hin' : p + 1 + m < s.cfg.memorySize := by omega
    obtain ⟨t, ht, hrs, htpc, hmar, hir, ⟨hac, hmq, hmdr, hmem⟩, htrace, hlast⟩ :=
      ih (advance (fetch p s)) (p + 1) (by simpa using hrun) (by simpa using hp) (by simp [hpc, nextPc])
        (by simpa using hin') (by simpa using hel) (fun n hn hn' => by simpa using hzero n (by omega) (by omega))
        (by simpa [Nat.add_assoc, Nat.add_comm 1 m] using hhalt)
    refine ⟨t, by rw [core_run_succ_of_next hstep, ht], hrs, ?_, ?_, hir, ?_, ?_, hlast⟩
    · rw [htpc]
      congr 1
      omega
    · rw [hmar]
      congr 1
      omega
    · exact ⟨by simpa using hac, by simpa using hmq, by simpa using hmdr, by simpa using hmem⟩
    · rw [htrace, advance_traceLog, fetch_traceLog]

end Sys2Proof.Machine
end

section
/-!
SUPPORT. The cell operand from the word to the end of the cycle: the word an instruction has, when its address field lies in the
Word Store, and the state each end of a memory instruction leaves. Then the statements on LOAD and STORE (41_data_transfer.md).
-/

namespace Sys2Proof.Machine

/-! The word and its operand. -/

/-- The word of an instruction is its two fields side by side, since an address field is below 256 (R71). -/
theorem encode_eq (i : Instr) : encode i = i.opcode * 256 + (i.address.toNat : Int) :=
  congrArg (i.opcode * 256 + ·) (Int.emod_eq_of_lt i.address.index_nonneg i.address.index_lt)

/-- A well-formed instruction has the one word its fields make, and no other instruction has it (R71, R72). -/
theorem word_of_fields {i : Instr} {w : Int} (hwf : i.wf = true) (hw : i.opcode * 256 + (i.address.toNat : Int) = w) :
    encode i = w ∧ decodeWord w = i := by
  have he : encode i = w := (encode_eq i).trans hw
  exact ⟨he, he ▸ decodeWord_encode hwf⟩

theorem inStore_index_of_lt {c : Configuration} {a : Address} (h : a.toNat < c.memorySize) : inStore c a.index = true :=
  inStore_eq_true.2 ⟨a.index_nonneg, Int.ofNat_lt.2 h⟩

theorem inStore_index_of_le {c : Configuration} {a : Address} (h : c.memorySize ≤ a.toNat) : inStore c a.index = false :=
  inStore_eq_false.2 (.inr (Int.ofNat_le.2 h))

theorem afterRead_inside {z : Int} {s : State} (h : inStore s.cfg z = true) : afterRead z s = s := if_pos h

theorem afterRead_outside {z : Int} {s : State} (h : inStore s.cfg z = false) : afterRead z s = s.bumpDraws := by
  simp [afterRead, h]

/-! The ends of the memory instructions. -/

/-- Any of the four whose address field fails the check takes AF_OPERAND, and nothing else changes (R54, R122). -/
theorem exec_operand_fault {i : Instr} {a : Address} {s : State} (hi : HasOperand i a) (hN : s.cfg.memorySize ≤ a.toNat)
    (hel : s.cfg.errorLogging = true) :
    exec i s = .next { s with
      rs := .faulted
      events := s.events ++ [.diag (.afOperand .outOfRange) (.value (.int a.toNat))] } := by
  have hk : check s.cfg (.int a.index) = .fault .outOfRange :=
    check_eq_fault.2 (.inr ⟨_, rfl, hel, inStore_index_of_le hN, rfl⟩)
  have faults (k) : withOperand a s k = .next (raiseFault (.afOperand .outOfRange) (.value (.int a.index)) s) := by
    simp [withOperand, hk]
  rcases hi with rfl | rfl | rfl | rfl <;> simp only [exec, execLoad, execStore, execAdd, execSubtract, faults] <;> rfl

/-- What a completed LOAD, ADD or SUBTRACT leaves, with the value `v` for `AC` and the trace entry `e` (R101, R107, R108). -/
theorem reader_completed (a : Address) (e : TraceEntry) (v : Value) (s : State) :
    advance (traceEntry e ((readToMdr a.index (s.setMar (.int a.index))).setAc v)) = { s with
      mar := .int a.index
      mdr := readCell a.index s
      ac := v
      pc := nextPc s.pc
      events := s.events ++ tracesShown s.cfg [e] ++ debugShown s.cfg (nextPc s.pc)
      draws := (afterRead a.index s).draws } := by
  apply State.ext <;> simp

/-- LOAD with an operand that passes the check, inside the Word Store or not (R101). -/
theorem exec_load {a : Address} {s : State} (h : Unfaulted s.cfg a.index) :
    exec (.load a) s = .next { s with
      mar := .int a.index
      mdr := readCell a.index s
      ac := readCell a.index s
      pc := nextPc s.pc
      events := s.events ++ tracesShown s.cfg [.load (readCell a.index s)] ++ debugShown s.cfg (nextPc s.pc)
      draws := (afterRead a.index s).draws } := by
  rcases exec_load_cases (a := a) (s := s) rfl with ⟨k, hk, -⟩ | ⟨-, h⟩
  · exact absurd h (not_unfaulted_of_check hk)
  · rw [h, reader_completed]

/-- STORE inside the Word Store (R102). -/
theorem exec_store_inside {a : Address} {s : State} (h : a.toNat < s.cfg.memorySize) :
    exec (.store a) s = .next { s with
      mar := .int a.index
      mem := Memory.write s.mem a.toNat s.ac
      pc := nextPc s.pc
      events := s.events ++ tracesShown s.cfg [.store (.int a.index) s.ac] ++ debugShown s.cfg (nextPc s.pc) } := by
  have hin := inStore_index_of_lt h
  rcases exec_store_cases (a := a) (s := s) rfl with ⟨k, hk, -⟩ | ⟨-, h⟩ | ⟨-, hout, -⟩
  · exact absurd (.inr hin) (not_unfaulted_of_check hk)
  · rw [h]
    congr 1
    apply State.ext <;> simp
  · cases hin.symm.trans hout

/-- STORE outside the Word Store that the check let pass is refused (R59). -/
theorem exec_store_outside {a : Address} {s : State} (hN : s.cfg.memorySize ≤ a.toNat) (hel : s.cfg.errorLogging = false) :
    exec (.store a) s = .refused (.outOfRangeWrite a.toNat) := by
  have hout := inStore_index_of_le hN
  rcases exec_store_cases (a := a) (s := s) rfl with ⟨k, hk, -⟩ | ⟨hin, -⟩ | ⟨-, -, h⟩
  · exact absurd (.inl hel) (not_unfaulted_of_check hk)
  · cases hin.symm.trans hout
  · exact h

/-! STORE, then LOAD. -/

/-- A fetch leaves what a cell of the Word Store reads as (R60, R87). -/
theorem readCell_fetch {z : Int} {s : State} (p : Int) (h : inStore s.cfg z = true) : readCell z (fetch p s) = readCell z s := by
  rw [readCell_inside (by simpa using h), readCell_inside h, fetch_mem]

/-- Settles O27: the completed STORE leaves its `AC` in the cell, and the LOAD of that cell reads it there; outside the store the
STORE is the refused write (R59, R103). -/
theorem storeThenLoad : Obligations.StoreThenLoad := by
  refine ⟨fun s s1 a p w q v _ hf hw h hf1 hv => ?_, fun s a p w hf hw hN hel => ?_⟩
  · obtain ⟨hin, hread, -, hpc, hcfg, hrun, -⟩ := hf.store_completes hw h
    have ⟨_, _, hq, _⟩ := hf1
    obtain rfl : p + 1 = q := by simpa using hpc.symm.trans hq
    have hin1 : inStore s1.cfg a.index = true := by rwa [hcfg]
    have hcell : readCell a.index (fetch (p + 1) s1) = s.ac := (readCell_fetch _ hin1).trans hread
    rw [hf1.step_eq, hv, exec_load (.inr (by simpa using hin1))]
    refine ⟨_, rfl, hcell, hcell, rfl, ?_, by simpa using hrun⟩
    simp [hpc, nextPc, add_assoc]
  · rw [hf.step_eq, hw]
    exact exec_store_outside (by simpa using hN) (by simpa using hel)

/-! Their results. -/

/-- Settles O14: LOAD with an operand that passes the check, at a cell and outside the store, and its fault (R101). -/
theorem loadResult : Obligations.LoadResult := by
  refine fun a s => ⟨word_of_fields rfl rfl, fun u p w hf hw => hf.operand_unfaulted (.inl hw), fun hN => ?_, fun hN hel => ?_,
    exec_operand_fault (.inl rfl)⟩
  · have hin := inStore_index_of_lt hN
    rw [exec_load (.inr hin), readCell_inside hin, afterRead_inside hin, a.index_toNat]
    rfl
  · have hout := inStore_index_of_le hN
    rw [exec_load (.inl hel), readCell_outside hout, afterRead_outside hout]
    rfl

/-- Settles O15: STORE at a cell, with a read after the write, outside the store, and its fault (R102). -/
theorem storeResult : Obligations.StoreResult := by
  refine fun a s => ⟨word_of_fields rfl rfl, fun u p w hf hw => hf.operand_unfaulted (.inr (.inl hw)), fun hN => ?_,
    exec_store_outside, exec_operand_fault (.inr (.inl rfl))⟩
  refine ⟨_, exec_store_inside hN, rfl, ?_, fun n hn => Memory.read_write_other s.mem s.ac hn⟩
  simp

end Sys2Proof.Machine
end

section
/-!
SUPPORT. The accumulator ALU and the one shape of ADD and SUBTRACT: an operation of the ALU on `AC` and the cell. Then the
statements on arithmetic (42_arithmetic.md).
-/

namespace Sys2Proof.Machine

/-! The accumulator ALU. -/

@[simp] theorem aluAdd_int (x y : Int) : aluAdd (.int x) (.int y) = .int (x + y) := rfl

@[simp] theorem aluSub_int (x y : Int) : aluSub (.int x) (.int y) = .int (x - y) := rfl

@[simp] theorem aluAdd_invalid_left (v : Value) : aluAdd .invalid v = .invalid := rfl

@[simp] theorem aluSub_invalid_left (v : Value) : aluSub .invalid v = .invalid := rfl

@[simp] theorem aluAdd_invalid_right (v : Value) : aluAdd v .invalid = .invalid := by cases v <;> rfl

@[simp] theorem aluSub_invalid_right (v : Value) : aluSub v .invalid = .invalid := by cases v <;> rfl

/-- Exactness is what lets a subtraction undo an addition: nothing has been masked off (R105, R109). -/
theorem aluSub_aluAdd_cancel (x y : Int) : aluSub (aluAdd (.int x) (.int y)) (.int y) = .int x := by
  rw [aluAdd_int, aluSub_int, Int.add_sub_cancel]

/-- Settles O13: the ALU's equations on integers and on `Invalid` at either side (R105, R106). -/
theorem aluIsExact : Obligations.AluIsExact :=
  ⟨fun x y => ⟨aluAdd_int x y, aluSub_int x y⟩,
    fun v => ⟨aluAdd_invalid_right v, aluAdd_invalid_left v, aluSub_invalid_right v, aluSub_invalid_left v⟩⟩

/-! ADD and SUBTRACT as one form. -/

/-- Where the operand `a` passes the check, `i` puts `op AC cell` in `AC` and appends the trace entry `entry` of it, after the cell
has gone to `MDR` (R107, R108). -/
def Computes (op : Value → Value → Value) (entry : Value → TraceEntry) (i : Instr) (a : Address) : Prop :=
  ∀ s : State, Unfaulted s.cfg a.index → exec i s = .next (advance (traceEntry (entry (op s.ac (readCell a.index s)))
    ((readToMdr a.index (s.setMar (.int a.index))).setAc (op s.ac (readCell a.index s)))))

theorem computes_add (a : Address) : Computes aluAdd .add (.add a) a := by
  intro s h
  rcases exec_add_cases (a := a) (s := s) rfl with ⟨k, hk, -⟩ | ⟨-, h⟩
  · exact absurd h (not_unfaulted_of_check hk)
  · exact h

theorem computes_subtract (a : Address) : Computes aluSub .sub (.subtract a) a := by
  intro s h
  rcases exec_subtract_cases (a := a) (s := s) rfl with ⟨k, hk, -⟩ | ⟨-, h⟩
  · exact absurd h (not_unfaulted_of_check hk)
  · exact h

section
variable {op : Value → Value → Value} {entry : Value → TraceEntry} {i : Instr} {a : Address} {s : State}

/-- With a cell of the Word Store as the operand nothing but `MAR`, `MDR`, `AC`, `PC` and the events changes. -/
theorem Computes.inside (hc : Computes op entry i a) (hN : a.toNat < s.cfg.memorySize) :
    exec i s = .next { s with
      mar := .int a.toNat
      mdr := Memory.read s.mem a.toNat
      ac := op s.ac (Memory.read s.mem a.toNat)
      pc := nextPc s.pc
      events := s.events ++ tracesShown s.cfg [entry (op s.ac (Memory.read s.mem a.toNat))] ++
        debugShown s.cfg (nextPc s.pc) } := by
  have hin := inStore_index_of_lt hN
  rw [hc s (.inr hin), reader_completed, readCell_inside hin, afterRead_inside hin, a.index_toNat]
  rfl

/-- Past the end of the Word Store, unchecked, the operand is a free value, and a draw has been used (R58). -/
theorem Computes.outside (hc : Computes op entry i a) (hN : s.cfg.memorySize ≤ a.toNat) (hel : s.cfg.errorLogging = false) :
    exec i s = .next { s with
      mar := .int a.toNat
      mdr := Config.oorRead s.draws a.toNat
      ac := op s.ac (Config.oorRead s.draws a.toNat)
      pc := nextPc s.pc
      events := s.events ++ tracesShown s.cfg [entry (op s.ac (Config.oorRead s.draws a.toNat))] ++
        debugShown s.cfg (nextPc s.pc)
      draws := s.draws + 1 } := by
  have hout := inStore_index_of_le hN
  rw [hc s (.inl hel), reader_completed, readCell_outside hout, afterRead_outside hout]
  rfl

/-- The cycle that runs it on a cell of the Word Store completes, and leaves the cells as they were (R85). -/
theorem Fetches.computes {p w : Int} (hf : Fetches s p w) (hw : decodeWord w = i) (hc : Computes op entry i a)
    (hN : a.toNat < s.cfg.memorySize) :
    ∃ t, step s = .next t ∧ t.ac = op s.ac (Memory.read s.mem a.toNat) ∧ t.mem = s.mem ∧ t.cfg = s.cfg := by
  rw [hf.step_eq, hw, hc.inside (by simpa using hN)]
  exact ⟨_, rfl, by simp⟩

end

/-! Their results. -/

/-- Settles O16: ADD with an operand that passes the check, at a cell and outside the store, and its fault (R107). -/
theorem addResult : Obligations.AddResult := fun a _ =>
  ⟨word_of_fields rfl rfl, fun _ _ _ hf hw => hf.operand_unfaulted (.inr (.inr (.inl hw))), (computes_add a).inside,
    (computes_add a).outside, exec_operand_fault (.inr (.inr (.inl rfl)))⟩

/-- Settles O17: SUBTRACT with an operand that passes the check, at a cell and outside the store, and its fault (R108). -/
theorem subtractResult : Obligations.SubtractResult := fun a _ =>
  ⟨word_of_fields rfl rfl, fun _ _ _ hf hw => hf.operand_unfaulted (.inr (.inr (.inr hw))), (computes_subtract a).inside,
    (computes_subtract a).outside, exec_operand_fault (.inr (.inr (.inr rfl)))⟩

/-- Settles O28: the ADD keeps the cell, so the SUBTRACT takes away what was added; `Invalid` in `AC` or the cell
stays (R106, R109). -/
theorem addThenSubtract : Obligations.AddThenSubtract := by
  intro s s1 a p w q v hN hf hw h hf1 hv
  obtain ⟨t, ht, hac1, hmem, hcfg⟩ := hf.computes hw (computes_add a) hN
  obtain rfl : t = s1 := by simpa using ht.symm.trans h
  obtain ⟨s2, h2, hac2, -⟩ := hf1.computes hv (computes_subtract a) (by rwa [hcfg])
  rw [hmem, hac1] at hac2
  refine ⟨s2, h2, fun x y hx hy => ?_, ?_⟩
  · rw [hac2, hx, hy, aluSub_aluAdd_cancel]
  · rintro (hx | hy)
    · simp [hac2, hx]
    · simp [hac2, hy]

end Sys2Proof.Machine
end

section
/-!
SUPPORT. INPUT's wait with and without a reply, and what a completed reply and a completed OUTPUT leave. Then the statements on
input and output (43_io.md).
-/

namespace Sys2Proof.Machine

/-! INPUT. -/

section
variable {x : Address} {s : State} {r : Reply} {rest : List Reply}

/-- Without a reply the wait goes on (R39). -/
theorem awaitReply_nil (h : s.replies = []) : awaitReply s = .next s := by
  rw [awaitReply, h]

/-- The next reply ends the wait, and it leaves the queue (R38, R110). -/
theorem awaitReply_cons (h : s.replies = r :: rest) :
    awaitReply s = .next (acceptReply r ((s.setReplies rest).setPending false)) := by
  rw [awaitReply, h]

/-- An integer reply goes to `AC` (R110). -/
theorem acceptReply_int (z : Int) (s : State) :
    acceptReply (.int z) s = advance (traceInputEntry ((s.emit (.inputReply (.int z))).setAc (.int z))) := rfl

/-- With `errorLogging` off an unparseable reply makes `AC` `Invalid` (R110). -/
theorem acceptReply_unparseable (hel : s.cfg.errorLogging = false) :
    acceptReply .unparseable s = advance (traceInputEntry ((s.emit (.inputReply .unparseable)).setAc .invalid)) := by
  simp [acceptReply, hel]

/-- With `errorLogging` an unparseable reply takes INPUT_PARSE (R110). -/
theorem awaitReply_parseFault (h : s.replies = .unparseable :: rest) (hel : s.cfg.errorLogging = true) :
    awaitReply s = .next (parseFault rest s) := by
  rw [awaitReply_cons h, parseFault]
  simp [acceptReply, hel]

/-- INPUT with a reply `r` that gives `AC` the value `v` (R110). -/
theorem exec_input_completed {v : Value} (h : s.replies = r :: rest) (hr : ∀ u : State, u.cfg = s.cfg →
      acceptReply r u = advance (traceInputEntry ((u.emit (.inputReply r)).setAc v))) :
    exec (.input x) s = .next { s with
      ac := v
      replies := rest
      inputPending := false
      pc := nextPc s.pc
      events := s.events ++ [.inputRequest, .inputReply r] ++
        (if Config.traceInput = true then tracesShown s.cfg [.input v] else []) ++ debugShown s.cfg (nextPc s.pc) } := by
  rw [exec_input, awaitReply_cons (rest := rest) (by simpa using h), hr _ (by simp)]
  refine congrArg Host.Outcome.next ?_
  apply State.ext <;> simp

/-- INPUT's fault: the draw says whether `AC` keeps its value or becomes `Invalid`, and `PC` stays (R110, R122). -/
theorem exec_input_parseFault (h : s.replies = .unparseable :: rest) (hel : s.cfg.errorLogging = true) :
    exec (.input x) s = .next { s with
      ac := if Config.inputFaultKeepsAc s.draws = true then s.ac else .invalid
      replies := rest
      inputPending := false
      rs := .faulted
      draws := s.draws + 1
      events := s.events ++ [.inputRequest, .inputReply .unparseable, .diag .inputParse (.reply .unparseable)] } := by
  rw [exec_input, awaitReply_parseFault (rest := rest) (by simpa using h) (by simpa using hel)]
  refine congrArg Host.Outcome.next ?_
  cases hk : Config.inputFaultKeepsAc s.draws <;> apply State.ext <;> simp [parseFault, hk]

end

/-- Settles O18: without a reply, with each reply, and the same wait when the reply comes in it (R38, R39, R110). -/
theorem inputResult : Obligations.InputResult := by
  refine ⟨fun w h0 h1 => ⟨_, decodeWord_of_opcodeField (op := 5) (by simp only [opcodeField]; omega)⟩,
    fun x s rest => ⟨fun h => ?_, fun z h => ?_, fun h hel => ?_, fun h hel => ?_, fun hrun => ?_⟩⟩
  · exact awaitReply_nil (s := (s.emit .inputRequest).setPending true) h
  · exact exec_input_completed h fun u _ => acceptReply_int z u
  · exact exec_input_completed h fun u hu => acceptReply_unparseable (by rwa [hu])
  · exact ⟨_, ite_eq_or_eq _ _ _, exec_input_parseFault h hel⟩
  · exact step_waiting hrun rfl

/-! OUTPUT. -/

/-- OUTPUT with an integer in `AC` that passes the check (R111). -/
theorem exec_output {x : Address} {s : State} {z : Int} (hac : s.ac = .int z) (h : Unfaulted s.cfg z) :
    exec (.output x) s = .next { s with
      pc := nextPc s.pc
      events := s.events ++ tracesShown s.cfg [.output (.int z) (fmt s.cfg.parseTo z)] ++ debugShown s.cfg (nextPc s.pc) } := by
  rcases exec_output_cases (x := x) (s := s) rfl with ⟨k, hk, -⟩ | ⟨y, hy, -, hexec⟩
  · exact absurd h (not_unfaulted_of_check (hac ▸ hk))
  · cases hac.symm.trans hy
    rw [hexec]
    refine congrArg Host.Outcome.next ?_
    apply State.ext <;> simp

/-- OUTPUT with a value in `AC` that fails the check takes AF_OUTPUT, and nothing else changes (R111, R122). -/
theorem exec_output_fault {x : Address} {s : State} {k : CheckKind} (h : check s.cfg s.ac = .fault k) :
    exec (.output x) s = .next { s with
      rs := .faulted
      events := s.events ++ [.diag (.afOutput k) (.value s.ac)] } := by
  rcases exec_output_cases (x := x) (s := s) rfl with ⟨_, hk, hexec⟩ | ⟨z, hz, hu, -⟩
  · cases h.symm.trans hk
    exact hexec
  · exact absurd hu (not_unfaulted_of_check (hz ▸ h))

/-- The one limit the formatter has: FF is put before a raw text for 255 that has none (R112). -/
theorem hasFF_fmt_hexadecimal_255 : hasFF (fmt .hexadecimal 255) = true := by
  cases h : hasFF (Config.fmtRaw .hexadecimal 255)
  · simp [fmt, h, hasFF]
  · simp [fmt, h]

/-- Settles O19: an `AC` that passes the check, and the check's two failures (R53, R111). -/
theorem outputResult : Obligations.OutputResult := by
  refine ⟨fun w h0 h1 => ⟨_, decodeWord_of_opcodeField (op := 6) (by simp only [opcodeField]; omega)⟩,
    hasFF_fmt_hexadecimal_255, fun x s => ⟨fun z hac h => ?_, fun z hac hel hz => ?_, fun hac => ?_⟩⟩
  · exact exec_output hac (h.imp_right inStore_eq_true.2)
  · have hk : check s.cfg s.ac = .fault .outOfRange := check_eq_fault.2 (.inr ⟨z, hac, hel, inStore_eq_false.2 hz, rfl⟩)
    rw [exec_output_fault hk, hac]
  · have hk : check s.cfg s.ac = .fault .notInteger := check_eq_fault.2 (.inl ⟨hac, rfl⟩)
    rw [exec_output_fault hk, hac]

end Sys2Proof.Machine
end

section
/-!
SUPPORT. The two ends of a word without a handler, each as one update of the state, after the fetch or on their own, and AF_DECODE
in a cycle that fetches inside the Word Store. Then the statements on the control words (44_control.md).
-/

namespace Sys2Proof.Machine

/-! The end of a cycle as one update. -/

/-- Step 4 writes `PC` and shows the debug hook (R91, R92). -/
theorem advance_eq (s : State) :
    advance s = { s with pc := nextPc s.pc, events := s.events ++ debugShown s.cfg (nextPc s.pc) } := by
  apply State.ext <;> simp

/-- Steps 4 and 5 on the sentinel (R91, R93). -/
theorem haltRun_advance_eq (s : State) :
    haltRun (advance s) = { s with
      pc := nextPc s.pc, rs := .halted, events := s.events ++ debugShown s.cfg (nextPc s.pc) ++ [.done] } := by
  apply State.ext <;> simp

/-- The fetch of a cycle that gets as far as execution puts the word in `IR` (R87). -/
theorem Fetches.fetch_writes {s : State} {p w : Int} (hf : Fetches s p w) :
    fetch p s = { s with mar := .int p, ir := .int w, draws := (fetch p s).draws } := by
  obtain ⟨-, -, -, -, hread, -⟩ := hf
  exact hread ▸ fetch_eq p s

/-! The no-ops. -/

theorem exec_noOp_eq {i : Instr} (hi : IsNoOp i) (s : State) :
    exec i s = .next { s with pc := nextPc s.pc, events := s.events ++ debugShown s.cfg (nextPc s.pc) } := by
  rw [exec_noOp hi, advance_eq]

/-- A whole cycle on a word without a handler, the sentinel apart, writes `MAR`, `IR` and `PC` (R87, R89, R91). -/
theorem Fetches.step_noOp {s : State} {p w : Int} (hf : Fetches s p w) (hop : opcodeField w ∉ [1, 2, 3, 4, 5, 6])
    (hw : w ≠ 3840) :
    step s = .next { s with
      mar := .int p
      ir := .int w
      pc := .int (p + 1)
      events := s.events ++ debugShown s.cfg (.int (p + 1))
      draws := (fetch p s).draws } := by
  have ⟨_, _, hpc, _⟩ := hf
  rw [hf.step_eq, exec_decodeWord_noOp hop hw, advance_eq, hf.fetch_writes]
  simp [hpc, nextPc]

/-! AF_DECODE. -/

/-- With `errorLogging` a word outside the Word Store, fetched from a cell of it, takes AF_DECODE and draws no free value
(R60, R88). -/
theorem step_decodeFault_outOfRange {s : State} {p w : Int} (hrun : s.rs = .running) (hp : s.inputPending = false)
    (hpc : s.pc = .int p) (h0 : 0 ≤ p) (hN : p < (s.cfg.memorySize : Int)) (hread : Memory.read s.mem p.toNat = .int w)
    (hel : s.cfg.errorLogging = true) (hw : w < 0 ∨ (s.cfg.memorySize : Int) ≤ w) :
    step s = .next { s with
      mar := .int p
      ir := .int w
      rs := .faulted
      events := s.events ++ [.diag (.afDecode .outOfRange) (.value (.int w))] } := by
  have hin : inStore s.cfg p = true := inStore_eq_true.2 ⟨h0, hN⟩
  obtain ⟨-, outside⟩ := decodeFault s p hrun hp hpc (.inr hin)
  rw [outside w ((readCell_inside hin).trans hread) hel hw, fetch_draws, afterRead_inside hin]

/-! The statements. -/

/-- Settles O20: HALT's end after the fetch or on its own, and AF_DECODE where 3840 lies outside the Word Store (R88, R114). -/
theorem haltResult : Obligations.HaltResult := by
  refine ⟨(decodeWord_eq_halt 3840).2 rfl, fun s => ?_, fun s p hf => ?_, fun s p hrun hp hpc h0 hN hread hel hsize => ?_⟩
  · rw [exec_halt, haltRun_advance_eq]
  · have ⟨_, _, hpc, _⟩ := hf
    rw [hf.step_sentinel, haltRun_advance_eq, hf.fetch_writes]
    simp [hpc, nextPc]
  · exact step_decodeFault_outOfRange hrun hp hpc h0 hN hread hel (.inr (by omega))

/-- Settles O21: a word 3841..4095 has opcode 15, which has no handler, and is not the sentinel (R89, R115). -/
theorem opcodeFifteenNoOp : Obligations.OpcodeFifteenNoOp := by
  refine ⟨fun x => exec_noOp_eq (i := .op15Nop x) trivial, fun s p w hlo hhi hf => ?_,
    fun s p w hrun hp hpc h0 hN hread _ _ hel hsize =>
      step_decodeFault_outOfRange hrun hp hpc h0 hN hread hel (.inr hsize)⟩
  have h15 : opcodeField w = 15 := by simp only [opcodeField]; omega
  exact hf.step_noOp (by simp [h15]) (by omega)

/-- Settles O22: the ten instructions are no-ops, a word outside the opcodes with a handler is neither those nor the sentinel, and
AF_DECODE is taken for an integer outside the Word Store or for `Invalid` (R73, R88, R116). -/
theorem unknownOpcodeNoOp : Obligations.UnknownOpcodeNoOp := by
  refine ⟨fun i op x s hi => exec_noOp_eq ?_ s, fun s p w hop hf => ?_,
    fun s p w hrun hp hpc h0 hN hread _ hel hw => step_decodeFault_outOfRange hrun hp hpc h0 hN hread hel hw,
    fun s p hrun hp hpc hu hread => ?_⟩
  · simp only [List.mem_cons, List.not_mem_nil, or_false] at hi
    rcases hi with rfl | rfl | rfl | rfl | rfl | rfl | rfl | rfl | rfl | rfl <;> trivial
  · have hsentinel : w ≠ 3840 := by
      rintro rfl
      exact hop (by decide)
    exact hf.step_noOp (fun h => hop (List.mem_append_left [15] h)) hsentinel
  · obtain ⟨invalid, -⟩ := decodeFault s p hrun hp hpc hu
    exact invalid hread

end Sys2Proof.Machine
end

section
/-!
SUPPORT. The steps of a run that fault, said once: the five faults a step can take, each as the state its fault leaves
(60_exceptions.md R119, R121). Then the statements on faults: what one leaves, that none is returned from, when one is taken with
`errorLogging` off, and the load call that fails.
-/

namespace Sys2Proof.Machine

/-! The check's failures. -/

/-- A cell access that faults is one outside the Word Store with `errorLogging`. -/
theorem not_unfaulted_iff {c : Configuration} {z : Int} :
    ¬ Unfaulted c z ↔ c.errorLogging = true ∧ inStore c z = false := by
  simp [Unfaulted]

/-- With `errorLogging` off the check fails on `Invalid` alone (R53, R120). -/
theorem invalid_of_check_unlogged {c : Configuration} {v : Value} {k : CheckKind} (hel : c.errorLogging = false)
    (h : check c v = .fault k) : v = .invalid := by
  rcases check_eq_fault.1 h with ⟨hv, -⟩ | ⟨z, -, he, -⟩
  · exact hv
  · cases hel.symm.trans he

/-! The steps of a run that fault. -/

/-- The five faults a step of a run can take. AF_OPERAND is not one of them (R119). -/
inductive FaultStep (s : State) : State → Prop
  /-- Code 1, on `PC`, before the fetch. -/
  | afFetch {k : CheckKind} (check : check s.cfg s.pc = .fault k) : FaultStep s (raiseFault (.afFetch k) (.value s.pc) s)
  /-- Code 2, on the fetched value. -/
  | afDecode {p : Int} {k : CheckKind} (pc : s.pc = .int p) (check : check s.cfg (readCell p s) = .fault k) :
      FaultStep s (raiseFault (.afDecode k) (.value (readCell p s)) (fetch p s))
  /-- Code 4, on `AC` at OUTPUT. -/
  | afOutput {p w : Int} {k : CheckKind} (fetches : Fetches s p w) (opcode : opcodeField w = 6) (check : check s.cfg s.ac = .fault k) :
      FaultStep s (raiseFault (.afOutput k) (.value s.ac) (fetch p s))
  /-- Code 5, at INPUT with the reply already there. -/
  | inputParse {p w : Int} {rest : List Reply} (fetches : Fetches s p w) (replies : s.replies = .unparseable :: rest)
      (logged : s.cfg.errorLogging = true) : FaultStep s (parseFault rest (((fetch p s).emit .inputRequest).setPending true))
  /-- Code 5, at the end of INPUT's wait. -/
  | waitParse {rest : List Reply} (pending : s.inputPending = true) (replies : s.replies = .unparseable :: rest)
      (logged : s.cfg.errorLogging = true) : FaultStep s (parseFault rest s)

/-- INPUT's wait faults only by INPUT_PARSE (R110). -/
theorem awaitReply_faulted {s t : State} (hrun : s.rs = .running) (h : awaitReply s = .next t) (ht : t.rs = .faulted) :
    ∃ rest, s.replies = .unparseable :: rest ∧ s.cfg.errorLogging = true ∧ t = parseFault rest s := by
  rcases awaitReply_ends h with ⟨-, rfl⟩ | ⟨r, rest, -, -, -, hc, -⟩ | hfault
  · cases hrun.symm.trans ht
  · cases (hc.rs.trans hrun).symm.trans ht
  · exact hfault

theorem faultStep_of_exec {s t : State} {p w : Int} (hf : Fetches s p w) (h : exec (decodeWord w) (fetch p s) = .next t)
    (ht : t.rs = .faulted) : FaultStep s t := by
  have ⟨hrun, _⟩ := hf
  rcases exec_ends h with ⟨-, -, hc, -, -⟩ | ⟨-, rfl⟩ | ⟨x, -, ha⟩ | ⟨k, a, hk, hi, -⟩ | ⟨k, x, hk, hx, rfl⟩
  · cases ((hc.rs.trans (fetch_rs p s)).trans hrun).symm.trans ht
  · cases ht
  · obtain ⟨rest, hq, hel, rfl⟩ := awaitReply_faulted (by simpa using hrun) ha ht
    exact .inputParse hf (by simpa using hq) (by simpa using hel)
  · exact absurd (hf.operand_unfaulted hi) (not_unfaulted_of_check (by simpa using hk))
  · have hop : opcodeField w = 6 := by rw [← decodeWord_opcode, hx]; rfl
    simpa using FaultStep.afOutput hf hop (by simpa using hk)

theorem faultStep_of_step {s t : State} (hrun : s.rs = .running) (h : step s = .next t) (ht : t.rs = .faulted) :
    FaultStep s t := by
  rcases run_ends hrun h with ⟨hp, h⟩ | ⟨k, -, hk, h⟩ | ⟨p, k, -, hpc, -, hk, h⟩ | ⟨p, w, hf, h⟩
  · obtain ⟨rest, hq, hel, rfl⟩ := awaitReply_faulted hrun h.symm ht
    exact .waitParse hp hq hel
  · cases h; exact .afFetch hk
  · cases h; exact .afDecode hpc hk
  · exact faultStep_of_exec hf h.symm ht

/-! What a fault leaves. -/

/-- AF_OPERAND changes nothing but the run state and the diagnostic, since the check comes before `MAR` is written (R54, R122). -/
theorem exec_operand_faults {i : Instr} {a : Address} {s : State} (hi : HasOperand i a) (h : ¬ Unfaulted s.cfg a.index) :
    exec i s = .next (raiseFault (.afOperand .outOfRange) (.value (.int a.index)) s) := by
  obtain ⟨hel, hin⟩ := not_unfaulted_iff.1 h
  exact exec_operand_fault hi (memorySize_le_of_outside hin) hel

section
variable (rest : List Reply) (s : State)

@[simp] theorem parseFault_mq : (parseFault rest s).mq = s.mq := rfl
@[simp] theorem parseFault_pc : (parseFault rest s).pc = s.pc := rfl
@[simp] theorem parseFault_ir : (parseFault rest s).ir = s.ir := rfl
@[simp] theorem parseFault_mar : (parseFault rest s).mar = s.mar := rfl
@[simp] theorem parseFault_mdr : (parseFault rest s).mdr = s.mdr := rfl
@[simp] theorem parseFault_mem : (parseFault rest s).mem = s.mem := rfl
@[simp] theorem parseFault_cfg : (parseFault rest s).cfg = s.cfg := rfl
@[simp] theorem parseFault_replies : (parseFault rest s).replies = rest := rfl
@[simp] theorem parseFault_events :
    (parseFault rest s).events = s.events ++ [.inputReply .unparseable, .diag .inputParse (.reply .unparseable)] := by
  simp [parseFault]

/-- INPUT_PARSE keeps `AC` or makes it `Invalid`, as drawn (R110). -/
theorem parseFault_ac : (parseFault rest s).ac = s.ac ∨ (parseFault rest s).ac = .invalid := ite_eq_or_eq _ _ _

end

/-- Settles O35: the five faults of a run, each with the writes of the fetch before it, or in a wait with those the invariant says
the fetch has left (R119, R121, R122). -/
theorem faultIsPrecise : Obligations.FaultIsPrecise := by
  refine ⟨fun i a s hi hu => exec_operand_faults hi hu, fun s t hinv hrun h ht => ?_⟩
  cases faultStep_of_step hrun h ht with
  | @afFetch k => exact ⟨.afFetch k, .value s.pc, by simp [Fault.code, State.traceLog]⟩
  | @afDecode p k hpc => exact ⟨.afDecode k, .value (readCell p s), by simp [Fault.code, State.traceLog, hpc]⟩
  | @afOutput p w k hf =>
    obtain ⟨-, -, hpc, -⟩ := hf
    exact ⟨.afOutput k, .value s.ac, by simp [Fault.code, State.traceLog, hpc]⟩
  | @inputParse p w rest hf hq =>
    obtain ⟨-, hnp, hpc, -⟩ := hf
    have hac := parseFault_ac rest (((fetch p s).emit .inputRequest).setPending true)
    exact ⟨.inputParse, .reply .unparseable, by simpa [Fault.code, State.traceLog, hpc, hq, hnp] using hac⟩
  | @waitParse rest hp hq =>
    obtain ⟨-, -, ⟨p, hpc, hmar⟩, -⟩ := hinv.wait hp
    have hac := parseFault_ac rest s
    exact ⟨.inputParse, .reply .unparseable, by simpa [Fault.code, State.traceLog, hpc, hmar, hq, hp] using hac⟩

/-- Settles O37: with `errorLogging` off the check fails on `Invalid` alone, and INPUT does not fault (R119, R120). -/
theorem onlyInvalidFaultsUnlogged : Obligations.OnlyInvalidFaultsUnlogged := by
  intro s t hel hrun h ht
  cases faultStep_of_step hrun h ht with
  | afFetch hk => exact .inl (invalid_of_check_unlogged hel hk)
  | @afDecode p k hpc hk => exact .inr (.inl ⟨p, hpc, invalid_of_check_unlogged hel hk⟩)
  | @afOutput p w k hf hop hk => exact .inr (.inr ⟨p, w, hf, hop, invalid_of_check_unlogged hel hk⟩)
  | inputParse _ _ logged => cases hel.symm.trans logged
  | waitParse _ _ logged => cases hel.symm.trans logged

/-! After a fault. -/

/-- A call served in `Faulted` leaves the run state: Run is the one that would not, and it is refused (R83, R125). -/
theorem performCall_keeps_faulted {c : HostCall} {s t : State} (hf : s.rs = .faulted) (h : performCall c s = .next t) :
    t.rs = .faulted := by
  rcases performCall_cases h with ⟨-, rfl⟩ | ⟨p, -, -, rfl⟩ | ⟨r, v, -, rfl⟩ | ⟨i, v, -, -, rfl⟩ | ⟨-, hnf, -⟩
  · exact hf
  · exact hf
  · cases r <;> exact hf
  · exact hf
  · exact absurd hf hnf

/-- There is no return from a fault (R125). -/
theorem step_keeps_faulted {s t : State} (hf : s.rs = .faulted) (h : step s = .next t) : t.rs = .faulted := by
  rw [step_resting (by simp [hf])] at h
  rcases serveHost_cases h with ⟨-, h⟩ | ⟨c, rest, -, h⟩
  · cases h; exact hf
  · exact performCall_keeps_faulted (s := s.setCalls rest) hf h.symm

/-- Settles O36: no call but Run changes the run state, Run is refused, and outside a run no step shows an event (R123, R125). -/
theorem faultedIsTerminal : Obligations.FaultedIsTerminal := by
  refine ⟨fun s t hf h => ?_, fun s rest => ?_, fun s hf hc => step_rests (by simp [hf]) hc⟩
  · obtain ⟨hev, -⟩ := resting_step_frame (by simp [hf]) h
    exact ⟨step_keeps_faulted hf h, hev⟩
  · obtain ⟨refused, -⟩ := runEntry_spec s rest
    exact refused

/-! The load call that fails. -/

/-- Settles O52: the loader looks at its argument before anything else, and the failed call leaves its answer alone (R126). -/
theorem loaderTypeFaultCall : Obligations.LoaderTypeFaultCall :=
  ⟨fun _ => rfl, fun _ _ hr hc => step_serves hr hc⟩

end Sys2Proof.Machine
end

section
/-!
SUPPORT. Construction and the Program Loader, said once: which options are legal, the three ends of construction, and what a load call
leaves (70_reset_and_hazards.md). Then the statements on reset: construction, the values it leaves, the invariant there, and the
loader's whole effect.
-/

namespace Sys2Proof.Machine

/-! The Program Loader. -/

/-- A sequence that fits is copied to the cells from 0, and the call answers ok (R137). -/
theorem performCall_load_fits {p : List Value} {s : State} (h : (amendProgram p).length ≤ s.cfg.memorySize) :
    performCall (.loadProgram (.sequence p)) s =
      .next ((s.setMem (Memory.writeAll s.mem 0 (amendProgram p))).answerLoad .ok) := by
  simp [performCall, loadCall, loadProgram, h]

/-- A sequence longer than the Word Store is refused (R137). -/
theorem performCall_load_overflow {p : List Value} {s : State} (h : s.cfg.memorySize < (amendProgram p).length) :
    performCall (.loadProgram (.sequence p)) s = .refused .loadOverflow := by
  simp [performCall, loadCall, loadProgram, Nat.not_le.2 h]

/-- A cell the loader's copy reaches holds its word. -/
theorem Memory.read_writeAll_inside (m : Memory) {vs : List Value} {n : Nat} (h : n < vs.length) :
    Memory.read (Memory.writeAll m 0 vs) n = vs[n] := by
  simp [Memory.read_writeAll, h]

/-- A cell past the loader's copy keeps its value (R138). -/
theorem Memory.read_writeAll_past (m : Memory) {vs : List Value} {n : Nat} (h : vs.length ≤ n) :
    Memory.read (Memory.writeAll m 0 vs) n = Memory.read m n := by
  simp [Memory.read_writeAll, h]

/-- Settles O51: the sequence the statement calls `q` is the amended one, and the load call has an end for each length of it. -/
theorem programLoader : Obligations.ProgramLoader := by
  refine ⟨fun _ _ hr hc => step_serves hr hc, fun s p q rest hr hc hq => ?_⟩
  obtain rfl : q = amendProgram p := hq
  rw [step_serves hr hc]
  refine ⟨performCall_load_overflow (s := s.setCalls rest), fun hfits => ?_⟩
  exact ⟨_, performCall_load_fits (s := s.setCalls rest) hfits, rfl,
    fun _ => Memory.read_writeAll_inside s.mem, fun _ => Memory.read_writeAll_past s.mem⟩

/-! Construction. -/

/-- The legal values of memorySize: nothing for the default, or an integer of at least 1 (R8, R134). -/
theorem legalMemorySize_eq_some {size : Option Value} {n : Nat} :
    legalMemorySize size = some n ↔ 1 ≤ n ∧ ((size = none ∧ n = 4096) ∨ size = some (.int n)) := by
  rcases size with _ | z | _
  · have omitted : 4096 = n ↔ 1 ≤ n ∧ n = 4096 := by omega
    simpa [legalMemorySize, Configuration.standard] using omitted
  · have given : 1 ≤ z ∧ z.toNat = n ↔ 1 ≤ n ∧ z = n := by omega
    simpa [legalMemorySize] using given
  · simp [legalMemorySize]

/-- The illegal values of memorySize (R134). -/
theorem legalMemorySize_eq_none {size : Option Value} :
    legalMemorySize size = none ↔ size = some .invalid ∨ ∃ z : Int, z < 1 ∧ size = some (.int z) := by
  rcases size with _ | z | _ <;> simp [legalMemorySize]

/-- The legal values of parseTo: nothing for the default, or one of the four bases (R8, R134). -/
theorem legalBase_eq_some {name : Option BaseName} {b : Base} :
    legalBase name = some b ↔ (name = none ∧ b = .hexadecimal) ∨ name = some (.known b) := by
  rcases name with _ | c | _
  · simp [legalBase, Configuration.standard, eq_comm]
  · simp [legalBase]
  · simp [legalBase]

/-- The configuration of the options, with the size and the base they stand for (R8). -/
def ConstructArg.configuration (o : ConstructArg) (n : Nat) (b : Base) : Configuration :=
  ⟨n, Option.getD o.errorLogging false, Option.getD o.debug false, Option.getD o.logging true, b⟩

theorem construct_badMemorySize {o : ConstructArg} (h : legalMemorySize o.memorySize = none) :
    construct o = .refused .badMemorySize := by
  simp [construct, h]

theorem construct_badParseTo {o : ConstructArg} {n : Nat} (hn : legalMemorySize o.memorySize = some n)
    (hb : legalBase o.parseTo = none) : construct o = .refused .badParseTo := by
  simp [construct, hn, hb]

theorem construct_legal {o : ConstructArg} {n : Nat} {b : Base} (hn : legalMemorySize o.memorySize = some n)
    (hb : legalBase o.parseTo = some b) : construct o = .next (State.constructed (o.configuration n b)) := by
  simp [construct, hn, hb, ConstructArg.configuration, Configuration.standard]

/-- A constructed state comes of legal options alone. -/
theorem construct_cases {o : ConstructArg} {s : State} (h : construct o = .next s) :
    ∃ n b, legalMemorySize o.memorySize = some n ∧ legalBase o.parseTo = some b ∧
      s = State.constructed (o.configuration n b) := by
  cases hn : legalMemorySize o.memorySize with
  | none => cases (construct_badMemorySize hn).symm.trans h
  | some n =>
    cases hb : legalBase o.parseTo with
    | none => cases (construct_badParseTo hn hb).symm.trans h
    | some b => exact ⟨n, b, rfl, rfl, by simpa using h.symm.trans (construct_legal hn hb)⟩

/-- A step of a run goes on, halts or faults (R33). -/
theorem RunStep.rs_ne_idle {s t : State} (hrun : s.rs = .running) (h : RunStep s t) : t.rs ≠ .idle := by
  cases h with
  | waits => simp [hrun]
  | requests => simp [hrun]
  | completes _ _ _ rs => simp [rs]
  | halts => simp
  | faults => simp

/-- No step leads back to Idle (R33, R134). -/
theorem step_idle {s t : State} (h : step s = .next t) (ht : t.rs = .idle) : s.rs = .idle := by
  by_cases hrun : s.rs = .running
  · exact absurd ht ((runStep_of_step hrun h).rs_ne_idle hrun)
  · obtain ⟨-, -, hrs | hrs⟩ := resting_step_frame hrun h
    · exact hrs.symm.trans ht
    · cases hrs.symm.trans ht

/-- Settles O54: the three ends of construction by the legality of its two options, and no step back to Idle. -/
theorem construction : Obligations.Construction := by
  refine ⟨fun _ _ => step_idle, fun o => ⟨fun hsize => construct_badMemorySize (legalMemorySize_eq_none.2 hsize),
    fun n name hn hsize hbase => ?_, fun n b hn hsize hbase => ?_⟩⟩
  · have bad : legalBase o.parseTo = none := by rw [hbase]; rfl
    rcases hsize with hsize | hsize
    · exact construct_badParseTo (n := 4096) (legalMemorySize_eq_some.2 (by simp [hsize])) bad
    · exact construct_badParseTo (legalMemorySize_eq_some.2 ⟨hn, .inr hsize⟩) bad
  · exact ⟨_, construct_legal (legalMemorySize_eq_some.2 ⟨hn, hsize⟩) (legalBase_eq_some.2 hbase), rfl⟩

/-- Settles O55: every constructed state is the one of its configuration, whose size and base are the legal options' (R135). -/
theorem resetValues : Obligations.ResetValues := by
  refine ⟨fun o s h => ?_, rfl, rfl⟩
  obtain ⟨n, b, hsize, hbase, rfl⟩ := construct_cases h
  obtain ⟨-, hsize⟩ := legalMemorySize_eq_some.1 hsize
  exact ⟨⟨rfl, rfl, rfl, rfl, rfl, rfl⟩, fun _ => rfl, rfl, rfl, rfl, rfl, hsize, rfl, rfl, rfl, legalBase_eq_some.1 hbase⟩

/-! The invariant at reset. -/

/-- The invariant holds of the state of any configuration with a cell: no cell is listed, INPUT does not wait, and nothing has been
shown. -/
theorem constructed_inv {c : Configuration} (h : 1 ≤ c.memorySize) : Inv (State.constructed c) where
  canonical := Memory.wf_nil
  inside := nofun
  size := h
  wait := nofun
  ends := ⟨fun _ => rfl, nofun, nofun⟩

/-- Settles O56: construction takes no size below 1, and reset has the default's. -/
theorem invAtReset : Obligations.InvAtReset := by
  refine ⟨constructed_inv (by decide), fun o s h => ?_⟩
  obtain ⟨n, b, hsize, -, rfl⟩ := construct_cases h
  obtain ⟨hn, -⟩ := legalMemorySize_eq_some.1 hsize
  exact constructed_inv hn

end Sys2Proof.Machine
end
